-- ==== Sys2Proof/Config.lean ====
section
/-! DEFINITION. Config: the build-time parameters of the block and of its bus collaborator
(spec/00_scope.md rules R5 to R8). -/

namespace Sys2Proof

/-- VARIANT, fixed when the block is built (rule R5): 8 channels with a 3-bit code, or 4 with a 2-bit code. -/
inductive Variant where
  | ch8
  | ch4
deriving DecidableEq, Repr

/-- NCH, the channel count of a variant (rule R5). -/
def Variant.nch : Variant → Nat
  | .ch8 => 8
  | .ch4 => 4

/-- CH_BITS, the channel-code width of a variant (rule R5). -/
def Variant.chBits : Variant → Nat
  | .ch8 => 3
  | .ch4 => 2

/-- TXN_SHAPE, a parameter of the bus collaborator (rule R7): how it clocks `[Write(F), Read(3)]` on the wire.
No rule of the block reads it. -/
inductive TxnShape where
  | writeThenRead
  | simultaneous
deriving DecidableEq, Repr

/-- The default the spec takes for TXN_SHAPE (rule R7, decision D7). -/
def Config.txnShapeDefault : TxnShape := .writeThenRead

/-- FAULT_W, the number of wires the bus fault value is carried on: a parameter the spec leaves open (rule R6,
decision D11).  It has no body, so every proof holds for every width (log entry 2). -/
opaque Config.faultW : Nat

/-- FAULT_T, the type of the bus fault value (rule R6): the block copies such a value and never looks into one. -/
abbrev FaultT := BitVec Config.faultW

end Sys2Proof
end

