-- ==== Sys2Proof/Word.lean ====
section
/-! DEFINITION. Word: the data the ports and the state carry (spec/00_scope.md rules R10 to R13,
spec/10_state.md, spec/30_encoding.md rule R45). Types only; what is computed on them stands in Decode.lean
and under Machine/. -/

namespace Sys2Proof

/-- A byte: 8 bits, unsigned (rule R10). -/
abbrev Byte := BitVec 8

/-- The 24-bit form of a frame on a port (rule R12). -/
abbrev Word24 := BitVec 24

/-- A sample: 10 bits, unsigned, 0..1023 (rule R73). -/
abbrev Sample := BitVec 10

/-- A frame: exactly 3 bytes; `b0` is the byte the document numbers first (rules R12, R38). -/
structure Frame where
  b0 : Byte
  b1 : Byte
  b2 : Byte
deriving DecidableEq, Repr

/-- A channel of one variant's closed set, by its code (rules R61, R62, R65): no other code is representable. -/
inductive Channel where
  | ch8 (c : BitVec 3)
  | ch4 (c : BitVec 2)
deriving DecidableEq, Repr

/-- A completion of the bus collaborator, `Done(Ok(R))` or `Done(Fault(f))` (rules R13, R27, R54). -/
inductive Completion where
  | ok (r : Frame)
  | fault (f : FaultT)
deriving DecidableEq, Repr

/-- PHASE (rule R19): IDLE, no transaction outstanding; BUSY, exactly one. -/
inductive Phase where
  | idle
  | busy
deriving DecidableEq, Repr

/-- The payload of a DONE word (rule R54): the 24 bits of `bus_rdata`, or the FAULT_W bits of `bus_fault`.  It has exactly one of
these two lengths (rule R45). -/
inductive Payload where
  | rdata (w : Word24)
  | fault (f : FaultT)
deriving DecidableEq, Repr

/-- A raw word presented on a carrier (rule R45's column "carried on").  But for DONE, whose fault payload is FAULT_W bits, it is a list
of bytes, the first byte first (log entry 13). -/
inductive PortWord where
  /-- CTRL: the reset input `rst` (rule R28). -/
  | rst (bytes : List Byte)
  /-- DONE: `bus_done` with the word `bus_ok ++ payload` (rule R54). -/
  | done (busOk : BitVec 1) (payload : Payload)
  /-- RSP24 as what the `Read(3)` sub-operation returned: the transaction ended well with these bytes (rule R51, log entry 9). -/
  | readOp (bytes : List Byte)
  /-- REQ: `req_valid` with `req_ch` (rule R53). -/
  | reqCh (bytes : List Byte)
  /-- CMD24 as the 24-bit word on `bus_wdata` (rules R46, R50; log entry 8). -/
  | busWdata (bytes : List Byte)
  /-- CMD24 as the three bytes of the `Write(F)` sub-operation (rule R49, log entry 8). -/
  | writeOp (bytes : List Byte)
deriving DecidableEq, Repr

/-- The words the outside presents in one step (rule R99: several events may be presented at once). -/
abbrev Cycle := List PortWord

end Sys2Proof
end

