-- ==== Sys2Proof/Syntax.lean ====
section
/-! DEFINITION. Syntax: one constructor for each row of spec/opcode_table.json. -/

namespace Sys2Proof

/-- The rows of the opcode table.  READ_* are command frames, REPLY is the reply frame, and the others are the
events of rule R80 with the operands their rows give them. -/
inductive Instr where
  /-- READ_SE8: the CH8 command-frame pattern with its channel bits (rules R46, R50, R71). -/
  | readSe8 (ch : BitVec 3)
  /-- READ_SE4: the CH4 command-frame pattern with its channel bits. -/
  | readSe4 (ch : BitVec 2)
  /-- READ_SE8.CH0 to READ_SE8.CH7: the eight CH8 frames of rule R49. -/
  | readSe8Ch0
  | readSe8Ch1
  | readSe8Ch2
  | readSe8Ch3
  | readSe8Ch4
  | readSe8Ch5
  | readSe8Ch6
  | readSe8Ch7
  /-- READ_SE4.CH0 to READ_SE4.CH3: the four CH4 frames of rule R49. -/
  | readSe4Ch0
  | readSe4Ch1
  | readSe4Ch2
  | readSe4Ch3
  /-- REPLY: the reply frame by its fields (rule R51). -/
  | reply (null0 : BitVec 8) (null1 : BitVec 6) (dHi : BitVec 2) (dLo : BitVec 8)
  /-- ISSUE.CH8: a request on a CH8 block (rule R82). -/
  | issueCh8 (ch : BitVec 3)
  /-- ISSUE.CH4: a request on a CH4 block (rule R82). -/
  | issueCh4 (ch : BitVec 2)
  /-- HOLD: a request presented while BUSY (rule R89). -/
  | hold (ch : Channel)
  /-- COMPLETE_OK: a reply (rule R85). -/
  | completeOk (r : Frame)
  /-- COMPLETE_FAULT: a bus fault (rule R87). -/
  | completeFault (f : FaultT)
  /-- IGNORE_DONE: a completion presented while IDLE (rule R90). -/
  | ignoreDone (d : Completion)
  /-- RESET: `rst = 1` (rule R110). -/
  | reset
deriving DecidableEq, Repr

end Sys2Proof
end

