-- ==== Sys2Proof/WellFormed.lean ====
section
/-! DEFINITION. WellFormed: which rows a block of a given variant has.  The operand types admit exactly the codes
the ports can carry (rules R57, R62), so the one thing left to check is the row's variant (rule R64). -/

namespace Sys2Proof

/-- The variant whose channel set a channel belongs to (rule R61). -/
def Channel.variant : Channel → Variant
  | .ch8 _ => .ch8
  | .ch4 _ => .ch4

/-- The "variant" column of the opcode table: `none` for a row of both variants. -/
def Instr.variant : Instr → Option Variant
  | .readSe8 _ => some .ch8
  | .readSe4 _ => some .ch4
  | .readSe8Ch0 => some .ch8
  | .readSe8Ch1 => some .ch8
  | .readSe8Ch2 => some .ch8
  | .readSe8Ch3 => some .ch8
  | .readSe8Ch4 => some .ch8
  | .readSe8Ch5 => some .ch8
  | .readSe8Ch6 => some .ch8
  | .readSe8Ch7 => some .ch8
  | .readSe4Ch0 => some .ch4
  | .readSe4Ch1 => some .ch4
  | .readSe4Ch2 => some .ch4
  | .readSe4Ch3 => some .ch4
  | .reply _ _ _ _ => none
  | .issueCh8 _ => some .ch8
  | .issueCh4 _ => some .ch4
  | .hold c => some c.variant
  | .completeOk _ => none
  | .completeFault _ => none
  | .ignoreDone _ => none
  | .reset => none

/-- A row is well formed on a block of variant `v` when it is a row of that variant or of both (rule R64). -/
def wellFormed (v : Variant) (i : Instr) : Bool :=
  match i.variant with
  | none => true
  | some u => u == v

/-- The "guard" column of the opcode table (rule R80): `none` where the row names no phase. -/
def Instr.guardPhase : Instr → Option Phase
  | .readSe8 _ => none
  | .readSe4 _ => none
  | .readSe8Ch0 => none
  | .readSe8Ch1 => none
  | .readSe8Ch2 => none
  | .readSe8Ch3 => none
  | .readSe8Ch4 => none
  | .readSe8Ch5 => none
  | .readSe8Ch6 => none
  | .readSe8Ch7 => none
  | .readSe4Ch0 => none
  | .readSe4Ch1 => none
  | .readSe4Ch2 => none
  | .readSe4Ch3 => none
  | .reply _ _ _ _ => none
  | .issueCh8 _ => some .idle
  | .issueCh4 _ => some .idle
  | .hold _ => some .busy
  | .completeOk _ => some .busy
  | .completeFault _ => some .busy
  | .ignoreDone _ => some .idle
  | .reset => none

/-- The row's guard holds in phase `ph` (rules R14, R80). -/
def Instr.enabledIn (i : Instr) (ph : Phase) : Bool :=
  match i.guardPhase with
  | none => true
  | some g => g == ph

end Sys2Proof
end

