-- ==== Sys2Proof/Decode.lean ====
section
/-! DEFINITION. Decode: the byte-order helpers, the decoder (total on any word of any carrier, rejecting by name) and
the encoder (spec/30_encoding.md; spec/00_scope.md rule R12; log entries 8, 13 and 15). -/

namespace Sys2Proof

/-! ### Frames, words and bytes -/

/-- `word24(F) = F[0] ++ F[1] ++ F[2]` (rule R12): byte 0 is bits 23:16. -/
def Frame.word24 (F : Frame) : Word24 := (F.b0 ++ F.b1 ++ F.b2 : BitVec 24)

/-- The frame whose `word24` is `w` (rule R12). -/
def Frame.ofWord24 (w : Word24) : Frame :=
  { b0 := w.extractLsb' 16 8, b1 := w.extractLsb' 8 8, b2 := w.extractLsb' 0 8 }

/-- A frame's bytes, byte 0 first (rule R33). -/
def Frame.toBytes (F : Frame) : List Byte := [F.b0, F.b1, F.b2]

/-- The `k` big-endian bytes of `n` (most significant byte first). -/
def beBytes : Nat → Nat → List Byte
  | 0, _ => []
  | k + 1, n => BitVec.ofNat 8 (n / 256 ^ k) :: beBytes k n

/-- A channel code zero-extended to a byte, right-aligned as on `req_ch` (rules R53, R62). -/
def Channel.code8 : Channel → Byte
  | .ch8 c => c.zeroExtend 8
  | .ch4 c => c.zeroExtend 8

/-! ### Command frames: match and mask -/

/-- MATCH_V of rule R50. -/
def cmdMatch : Variant → Word24
  | .ch8 => 0x018000#24
  | .ch4 => 0x018000#24

/-- MASK_V of rule R50. -/
def cmdMask : Variant → Word24
  | .ch8 => 0xFF8FFF#24
  | .ch4 => 0xFFCFFF#24

/-- The groups of command words the block never emits (rule R56's table). -/
inductive FrameGroup where
  | differential
  | wrongStartByte
  | lowNibbleSet
  | fillerNotZero
  | channelOutOfRange
deriving DecidableEq, Repr

/-- `w` lies in the group (rule R56's "condition" column; the last group is of CH4 only). -/
def FrameGroup.holds (v : Variant) (w : Word24) : FrameGroup → Bool
  | .differential => w.extractLsb' 15 1 == 0#1
  | .wrongStartByte => w.extractLsb' 16 8 != 0x01#8
  | .lowNibbleSet => w.extractLsb' 8 4 != 0#4
  | .fillerNotZero => w.extractLsb' 0 8 != 0#8
  | .channelOutOfRange => v == .ch4 && w.extractLsb' 14 1 == 1#1

/-- The first group of rule R56, in the table's order, that a word outside rule R50's pattern lies in (log entry 12).
The five groups cover those words, so what passes the first four lies in the last. -/
def neverEmitted (v : Variant) (w : Word24) : FrameGroup :=
  if FrameGroup.differential.holds v w then .differential
  else if FrameGroup.wrongStartByte.holds v w then .wrongStartByte
  else if FrameGroup.lowNibbleSet.holds v w then .lowNibbleSet
  else if FrameGroup.fillerNotZero.holds v w then .fillerNotZero
  else .channelOutOfRange

/-! ### The decoder -/

/-- Why a word is no row of the table. -/
inductive Reject where
  /-- The carrier's words have another length (rules R38, R45); of a DONE word, another than `bus_ok` selects (rule R54). -/
  | badLength
  /-- A one-bit field with a bit set above bit 0 (rule R28). -/
  | strayBits
  /-- `rst = 0`, which is no event (rule R28). -/
  | rstLow
  /-- A request code wider than CH_BITS: no wire carries it (rules R53, R57). -/
  | codeTooWide
  /-- A command word the block never emits (rule R56). -/
  | neverEmittedFrame (g : FrameGroup)
deriving DecidableEq, Repr

/-- The rows READ_SE8 and READ_SE4, by match and mask on `word24` (rule R50). -/
def decodePattern (v : Variant) (w : Word24) : Option Instr :=
  if w &&& cmdMask v = cmdMatch v then
    match v with
    | .ch8 => some (.readSe8 (w.extractLsb' 12 3))
    | .ch4 => some (.readSe4 (w.extractLsb' 12 2))
  else none

/-- The map of every command frame the block can emit (rule R49): the concrete rows. -/
def frameMap : Variant → List (Frame × Instr)
  | .ch8 =>
    [ (⟨0x01#8, 0x80#8, 0x00#8⟩, .readSe8Ch0), (⟨0x01#8, 0x90#8, 0x00#8⟩, .readSe8Ch1),
      (⟨0x01#8, 0xA0#8, 0x00#8⟩, .readSe8Ch2), (⟨0x01#8, 0xB0#8, 0x00#8⟩, .readSe8Ch3),
      (⟨0x01#8, 0xC0#8, 0x00#8⟩, .readSe8Ch4), (⟨0x01#8, 0xD0#8, 0x00#8⟩, .readSe8Ch5),
      (⟨0x01#8, 0xE0#8, 0x00#8⟩, .readSe8Ch6), (⟨0x01#8, 0xF0#8, 0x00#8⟩, .readSe8Ch7) ]
  | .ch4 =>
    [ (⟨0x01#8, 0x80#8, 0x00#8⟩, .readSe4Ch0), (⟨0x01#8, 0x90#8, 0x00#8⟩, .readSe4Ch1),
      (⟨0x01#8, 0xA0#8, 0x00#8⟩, .readSe4Ch2), (⟨0x01#8, 0xB0#8, 0x00#8⟩, .readSe4Ch3) ]

/-- The concrete row of a frame (rule R49). -/
def decodeConcrete (v : Variant) (F : Frame) : Option Instr :=
  ((frameMap v).find? (fun row => row.1 == F)).map (·.2)

/-- Three bytes as a frame, byte 0 first; any other length is no frame (rule R38). -/
def frameOfBytes : List Byte → Option Frame
  | [x, y, z] => some ⟨x, y, z⟩
  | _ => none

/-- CMD24 on a carrier, read by `row` (rules R49, R50, R56). -/
def decodeCommand (row : Frame → Option Instr) (v : Variant) (bs : List Byte) : Except Reject Instr :=
  match frameOfBytes bs with
  | none => .error .badLength
  | some F =>
    match row F with
    | some i => .ok i
    | none => .error (.neverEmittedFrame (neverEmitted v F.word24))

/-- RSP24: every reply word is legal (rule R51). -/
def decodeReply (bs : List Byte) : Except Reject Instr :=
  match frameOfBytes bs with
  | none => .error .badLength
  | some F => .ok (.reply F.b0 (F.b1.extractLsb' 2 6) (F.b1.extractLsb' 0 2) F.b2)

/-- The channel a request byte carries: `req_ch` is CH_BITS wide (rules R53, R62). -/
def decodeChannel (v : Variant) (b : Byte) : Except Reject Channel :=
  match v with
  | .ch8 => if b.toNat < 8 then .ok (.ch8 (b.extractLsb' 0 3)) else .error .codeTooWide
  | .ch4 => if b.toNat < 4 then .ok (.ch4 (b.extractLsb' 0 2)) else .error .codeTooWide

/-- The row a request is in each phase (rule R80): ISSUE when IDLE, HOLD when BUSY. -/
def requestRow : Phase → Channel → Instr
  | .idle, .ch8 c => .issueCh8 c
  | .idle, .ch4 c => .issueCh4 c
  | .busy, c => .hold c

/-- The row a completion is in each phase (rule R80). -/
def completionRow : Phase → Completion → Instr
  | .busy, .ok r => .completeOk r
  | .busy, .fault f => .completeFault f
  | .idle, d => .ignoreDone d

/-- REQ (rule R53). -/
def decodeRequest (v : Variant) (ph : Phase) : List Byte → Except Reject Instr
  | [b] =>
    match decodeChannel v b with
    | .ok c => .ok (requestRow ph c)
    | .error e => .error e
  | _ => .error .badLength

/-- A DONE word (rule R54): `bus_ok` alone selects the operation, and the payload has the length that goes with it (rule R45). -/
def decodeCompletion (busOk : BitVec 1) (payload : Payload) : Except Reject Completion :=
  if busOk = 1#1 then
    match payload with
    | .rdata w => .ok (.ok (Frame.ofWord24 w))
    | .fault _ => .error .badLength
  else
    match payload with
    | .fault f => .ok (.fault f)
    | .rdata _ => .error .badLength

/-- DONE (rule R54). -/
def decodeDone (ph : Phase) (busOk : BitVec 1) (payload : Payload) : Except Reject Instr :=
  match decodeCompletion busOk payload with
  | .ok d => .ok (completionRow ph d)
  | .error e => .error e

/-- CTRL: `rst` (rule R28). -/
def decodeRst : List Byte → Except Reject Instr
  | [b] => if b = 1#8 then .ok .reset else if b = 0#8 then .error .rstLow else .error .strayBits
  | _ => .error .badLength

/-- The row a presented word is, on a block of variant `v` in phase `ph` (rules R45, R80). -/
def decode (v : Variant) (ph : Phase) : PortWord → Except Reject Instr
  | .rst bs => decodeRst bs
  | .done busOk payload => decodeDone ph busOk payload
  | .readOp bs => decodeReply bs
  | .reqCh bs => decodeRequest v ph bs
  | .busWdata bs => decodeCommand (fun F => decodePattern v F.word24) v bs
  | .writeOp bs => decodeCommand (decodeConcrete v) v bs

/-! ### The encoder -/

/-- The CH8 command frame by its fields (rules R46, R47): START, SGL, the channel in byte 1 bits 6:4, FILL. -/
def cmdFrame8 (c : BitVec 3) : Frame := { b0 := 0x01#8, b1 := (1#1 ++ c ++ 0#4 : BitVec 8), b2 := 0x00#8 }

/-- The CH4 command frame by its fields (rules R46, R47): byte 1 bit 6 is 0. -/
def cmdFrame4 (c : BitVec 2) : Frame := { b0 := 0x01#8, b1 := (1#1 ++ 0#1 ++ c ++ 0#4 : BitVec 8), b2 := 0x00#8 }

/-- The reply frame by its fields (rule R51). -/
def replyFrame (null0 : BitVec 8) (null1 : BitVec 6) (dHi : BitVec 2) (dLo : BitVec 8) : Frame :=
  { b0 := null0, b1 := (null1 ++ dHi : BitVec 8), b2 := dLo }

/-- The REQ word of a channel (rule R53). -/
def encodeRequest (c : Channel) : PortWord := .reqCh [c.code8]

/-- The DONE word of a completion (rule R54). -/
def encodeCompletion : Completion → PortWord
  | .ok r => .done 1#1 (.rdata r.word24)
  | .fault f => .done 0#1 (.fault f)

/-- The word of a row, from the tables of rules R45 to R55. -/
def encode : Instr → PortWord
  | .readSe8 c => .busWdata (cmdFrame8 c).toBytes
  | .readSe4 c => .busWdata (cmdFrame4 c).toBytes
  | .readSe8Ch0 => .writeOp [0x01#8, 0x80#8, 0x00#8]
  | .readSe8Ch1 => .writeOp [0x01#8, 0x90#8, 0x00#8]
  | .readSe8Ch2 => .writeOp [0x01#8, 0xA0#8, 0x00#8]
  | .readSe8Ch3 => .writeOp [0x01#8, 0xB0#8, 0x00#8]
  | .readSe8Ch4 => .writeOp [0x01#8, 0xC0#8, 0x00#8]
  | .readSe8Ch5 => .writeOp [0x01#8, 0xD0#8, 0x00#8]
  | .readSe8Ch6 => .writeOp [0x01#8, 0xE0#8, 0x00#8]
  | .readSe8Ch7 => .writeOp [0x01#8, 0xF0#8, 0x00#8]
  | .readSe4Ch0 => .writeOp [0x01#8, 0x80#8, 0x00#8]
  | .readSe4Ch1 => .writeOp [0x01#8, 0x90#8, 0x00#8]
  | .readSe4Ch2 => .writeOp [0x01#8, 0xA0#8, 0x00#8]
  | .readSe4Ch3 => .writeOp [0x01#8, 0xB0#8, 0x00#8]
  | .reply n0 n1 h l => .readOp (replyFrame n0 n1 h l).toBytes
  | .issueCh8 c => encodeRequest (.ch8 c)
  | .issueCh4 c => encodeRequest (.ch4 c)
  | .hold c => encodeRequest c
  | .completeOk r => encodeCompletion (.ok r)
  | .completeFault f => encodeCompletion (.fault f)
  | .ignoreDone d => encodeCompletion d
  | .reset => .rst [1#8]

/-! ### Table words -/

/-- The presented words a table word of `nbits` bits may be, in the order they are tried: a table word names no carrier, so the
one-byte words follow rule R99's order and the three-byte words take the concrete frames first.  Of a DONE word the table gives
`bus_ok` alone, and the payload's bits are 0 (log entry 15). -/
def tableWords (nbits w : Nat) : List PortWord :=
  if nbits = 8 then
    [.rst (beBytes 1 w)]
      ++ (if w = 1 then [.done 1#1 (.rdata 0#24)] else if w = 0 then [.done 0#1 (.fault 0)] else [])
      ++ [.reqCh (beBytes 1 w)]
  else if nbits = 24 then [.writeOp (beBytes 3 w), .busWdata (beBytes 3 w), .readOp (beBytes 3 w)]
  else []

/-- The phase a table word is decoded in: a completion answers an outstanding transaction (rule R80). -/
def tablePhase : PortWord → Phase
  | .rst _ => .idle
  | .done _ _ => .busy
  | .readOp _ => .busy
  | .reqCh _ => .idle
  | .busWdata _ => .idle
  | .writeOp _ => .idle

/-- The presented word and row that a table word is: the first carrier whose decoder accepts it, on the CH8 block that the host's
interface runs (log entries 1 and 15). -/
def tableWord (nbits w : Nat) : Option (PortWord × Instr) :=
  if w < 2 ^ nbits then
    (tableWords nbits w).findSome? fun pw =>
      match decode .ch8 (tablePhase pw) pw with
      | .ok i => some (pw, i)
      | .error _ => none
  else none

/-- The row the decoder reads from a word numbered as the opcode table numbers it (log entry 15). -/
def decodeTableWord (nbits w : Nat) : Option Instr := (tableWord nbits w).map (·.2)

end Sys2Proof
end

