-- ==== Sys2Proof/Machine/State.lean ====
section
/-! DEFINITION. Machine/State: the state of the block, the events it produces, and the reasons a step can stop
(spec/10_state.md; INVENTORY.md lists every field with its rule and reset value). -/

namespace Sys2Proof.Machine

/-- A sub-operation of a bus transaction (rules R13, R32). -/
inductive SubOp where
  | write (F : Frame)
  | read (n : Nat)
deriving DecidableEq, Repr

/-- The response of one read (rules R26, R55): `Ok(s)` or `Err(f)`. -/
inductive Response where
  | ok (s : Sample)
  | err (f : FaultT)
deriving DecidableEq, Repr

/-- An output event of a step (rules R26, R27): a bus transaction or a response. -/
inductive Output where
  | busReq (ops : List SubOp)
  | rsp (r : Response)
deriving DecidableEq, Repr

/-- The machine's state.  PHASE and CMD_REG are the block's own (rules R19, R20, R93); `outputs` holds the output ports'
events of the last step (rules R26, R27, R29); `req` is what the requester keeps presented (rules R25, R81);
`inputs` is what the outside presents in the steps to come (log entry 3).  VARIANT is a parameter of the machine and no field
(rules R5, R18): `stepOf` takes it. -/
structure State where
  phase : Phase
  cmdReg : Word24
  outputs : List Output
  req : Option (List Byte)
  inputs : List Cycle
deriving DecidableEq, Repr

/-- Why a step ends in a fault.  The block itself never stops with one: BusFault is a response (rules R94, R95). -/
inductive Fault where
  /-- A word presented on a CMD24 carrier is one the block never emits: a fault of the implementation under test
  (rule R56, 93_implementation_defined.md U6).  Raised by `stepOf` when it decodes such a word.  Safe. -/
  | implementationUnderTest (g : FrameGroup)
deriving DecidableEq, Repr

/-- Why a step is refused. -/
inductive Refusal where
  /-- An instruction without a meaning, raised by a refused arm of `exec` only (there is none).  Safe. -/
  | notModelled (mnemonic : String)
  /-- The presented bytes are no word of their carrier: no wire can carry them (rules R38, R53, R57).  Raised by
  `stepOf` when it decodes them.  Safe. -/
  | noPortWord (e : Reject)
deriving DecidableEq, Repr

/-- The state after reset, of a block of either variant (rules R5, R29); nothing is presented yet (log entry 18). -/
def State.reset : State where
  phase := .idle
  cmdReg := 0x000000#24
  outputs := []
  req := none
  inputs := []

end Sys2Proof.Machine
end

