-- ==== Sys2Proof/Machine/Operands.lean ====
section
/-! DEFINITION. Machine/Operands: the operands of the steps and the frame codec, ENCODE and DECODE
(spec/40_channel_selector.md, spec/41_frame_codec.md; the operators of rule R11 are those of BitVec). -/

namespace Sys2Proof.Machine

/-- ENCODE(c) (rule R71). -/
def encodeFrame (c : Channel) : Frame :=
  let n : Byte := c.code8 ||| 0x08#8
  { b0 := 0x01#8, b1 := n <<< 4, b2 := 0x00#8 }

/-- DECODE(R) (rule R73): the zero-extended bytes 1 and 2, masked to bits 9:0. -/
def decodeFrame (R : Frame) : Sample :=
  let t : BitVec 16 := (R.b1.zeroExtend 16 <<< 8) ||| R.b2.zeroExtend 16
  let s : BitVec 16 := t &&& 0x03FF#16
  s.extractLsb' 0 10

/-- The transaction of a command frame, in order: write its 3 bytes, then read 3 (rule R32). -/
def txnOf (F : Frame) : List SubOp := [.write F, .read 3]

/-- The input event of the Lean reading (rule R93). -/
inductive Input where
  | req (c : Channel)
  | done (d : Completion)
  | rst
deriving DecidableEq, Repr

/-- The event a row's word presents: the frame rows stand for the request whose ISSUE emits them (log entry 7) and
REPLY for the completion that carries it (log entry 9). -/
def inputOf : Instr → Input
  | .readSe8 c => .req (.ch8 c)
  | .readSe4 c => .req (.ch4 c)
  | .readSe8Ch0 => .req (.ch8 0#3)
  | .readSe8Ch1 => .req (.ch8 1#3)
  | .readSe8Ch2 => .req (.ch8 2#3)
  | .readSe8Ch3 => .req (.ch8 3#3)
  | .readSe8Ch4 => .req (.ch8 4#3)
  | .readSe8Ch5 => .req (.ch8 5#3)
  | .readSe8Ch6 => .req (.ch8 6#3)
  | .readSe8Ch7 => .req (.ch8 7#3)
  | .readSe4Ch0 => .req (.ch4 0#2)
  | .readSe4Ch1 => .req (.ch4 1#2)
  | .readSe4Ch2 => .req (.ch4 2#2)
  | .readSe4Ch3 => .req (.ch4 3#2)
  | .reply n0 n1 h l => .done (.ok (replyFrame n0 n1 h l))
  | .issueCh8 c => .req (.ch8 c)
  | .issueCh4 c => .req (.ch4 c)
  | .hold c => .req c
  | .completeOk r => .done (.ok r)
  | .completeFault f => .done (.fault f)
  | .ignoreDone d => .done d
  | .reset => .rst

end Sys2Proof.Machine
end

