-- ==== Sys2Proof/Machine/Flags.lean ====
section
/-! DEFINITION. Machine/Flags: the block has no flags (spec/10_state.md rule R17).  What software-visible bits it has are its
output signals, and this file computes each of them from the state (rules R25 to R27), and the port words of
spec/30_encoding.md rules R53 to R55. -/

namespace Sys2Proof.Machine

/-- PHASE as its bit: IDLE = 0, BUSY = 1 (rule R19). -/
def phaseBit : Phase → BitVec 1
  | .idle => 0#1
  | .busy => 1#1

/-- `req_ready = (PHASE == IDLE)` (rule R25). -/
def State.reqReady (s : State) : BitVec 1 :=
  match s.phase with
  | .idle => 1#1
  | .busy => 0#1

/-- The response an output event carries. -/
def Output.response? : Output → Option Response
  | .busReq _ => none
  | .rsp r => some r

/-- The transaction an output event carries. -/
def Output.txn? : Output → Option (List SubOp)
  | .busReq ops => some ops
  | .rsp _ => none

/-- The response on the response port in this step, if there is one. -/
def State.response (s : State) : Option Response := s.outputs.findSome? Output.response?

/-- `rsp_valid`: high for the one step that produces the response (rule R26). -/
def State.rspValid (s : State) : BitVec 1 :=
  match s.response with
  | some _ => 1#1
  | none => 0#1

/-- `rsp_is_fault` of a response (rules R55, R94). -/
def Response.isFault : Response → BitVec 1
  | .ok _ => 0#1
  | .err _ => 1#1

/-- `rsp_sample` of a response: the constant 0x000 on a fault (rule R55). -/
def Response.sample : Response → Sample
  | .ok s => s
  | .err _ => 0x000#10

/-- `rsp_fault` of a response: all zeros on success (rule R55). -/
def Response.fault : Response → FaultT
  | .ok _ => 0
  | .err f => f

/-- `rsp_is_fault`; 0 while `rsp_valid = 0` (rule R29, log entry 14). -/
def State.rspIsFault (s : State) : BitVec 1 := (s.response.map Response.isFault).getD 0#1

/-- `rsp_sample`; 0 while `rsp_valid = 0` (rule R29, log entry 14). -/
def State.rspSample (s : State) : Sample := (s.response.map Response.sample).getD 0x000#10

/-- `rsp_fault`; 0 while `rsp_valid = 0` (rule R29, log entry 14). -/
def State.rspFault (s : State) : FaultT := (s.response.map Response.fault).getD 0

/-- `bus_start`: high for the one step that issues (rule R27). -/
def State.busStart (s : State) : BitVec 1 :=
  match s.outputs.findSome? Output.txn? with
  | some _ => 1#1
  | none => 0#1

/-- `bus_wdata` is CMD_REG (rules R20, R27). -/
def State.busWdata (s : State) : Word24 := s.cmdReg

/-- `bus_wlen` and `bus_rlen`, constant 3 and 3 (rule R27). -/
def busWlen : BitVec 2 := 3#2

/-- See `busWlen`. -/
def busRlen : BitVec 2 := 3#2

/-- The DONE word of a reply, `bus_ok ++ bus_rdata` (rule R54). -/
def doneOkWord (R : Frame) : BitVec (1 + 24) := 1#1 ++ R.word24

/-- The DONE word of a fault, `bus_ok ++ bus_fault` (rule R54). -/
def doneFaultWord (f : FaultT) : BitVec (1 + Config.faultW) := 0#1 ++ f

/-- The RESP word, `rsp_is_fault ++ rsp_sample ++ rsp_fault` (rule R55). -/
def respWord (r : Response) : BitVec (1 + 10 + Config.faultW) := r.isFault ++ r.sample ++ r.fault

end Sys2Proof.Machine
end

