-- ==== Sys2Proof/Machine/Ops.lean ====
section
/-! DEFINITION. Machine/Ops: the operations every meaning is written over (spec/42_read_channel.md rules R80 to R90,
spec/60_exceptions.md rule R95, spec/70_reset_and_hazards.md rule R110).  The block has no memory and no registers to
read by number (rules R15, R30), so these are its whole set. -/

namespace Sys2Proof.Machine

/-- The answer of a step. -/
abbrev Answer := Host.Outcome State Fault Refusal

/-- ISSUE's effect for the frame `F` (rule R82): CMD_REG and PHASE are written, the transaction starts, and the request
is no longer presented because it is accepted (rule R25).  A CMD24 row does the same: it empties the request port, though a CMD24 word
taken by `stepOf` finds it empty already (log entry 22). -/
def State.startTxn (F : Frame) (s : State) : State :=
  { s with phase := .busy, cmdReg := F.word24, outputs := [.busReq (txnOf F)], req := none }

/-- HOLD's effect (rule R89): the block's state stays, no output is produced, and the request stays presented
(rules R25, R81; log entries 4 and 5).  A CMD24 row held this way becomes the request presented (log entry 22). -/
def State.holdRequest (c : Channel) (s : State) : State :=
  { s with outputs := [], req := some [c.code8] }

/-- The end of a transaction with a response (rules R85, R87): PHASE is IDLE, CMD_REG is unchanged
(log entry 17). -/
def State.respond (r : Response) (s : State) : State :=
  { s with phase := .idle, outputs := [.rsp r] }

/-- `raise BusFault(f)`, the whole of fault delivery (rules R13, R87, R95): the fault is the response, unchanged, and PHASE
is IDLE.  Nothing is saved and control goes nowhere; there is no return from it (rule R97). -/
def State.raiseBusFault (f : FaultT) (s : State) : State := s.respond (.err f)

/-- IGNORE_DONE's effect (rule R90): no state changes and no output is produced. -/
def State.ignoreDone (s : State) : State := { s with outputs := [] }

/-- RESET's effect (rule R110).  What the requester presents is not the block's and stays (rule R99's vector S12 of
spec/95_test_vectors.md: "the requester keeps presenting"). -/
def State.resetBlock (s : State) : State :=
  { s with phase := .idle, cmdReg := 0x000000#24, outputs := [] }

/-- A request for channel `c` whose frame is `F`, by the guards of rule R80: ISSUE when IDLE, HOLD when BUSY
(log entry 10). -/
def onRequest (c : Channel) (F : Frame) (s : State) : State :=
  match s.phase with
  | .idle => s.startTxn F
  | .busy => s.holdRequest c

/-- A completion, by the guards of rule R80: COMPLETE_OK or COMPLETE_FAULT when BUSY, IGNORE_DONE when IDLE
(log entry 10). -/
def onCompletion (d : Completion) (s : State) : State :=
  match s.phase, d with
  | .busy, .ok R => s.respond (.ok (decodeFrame R))
  | .busy, .fault f => s.raiseBusFault f
  | .idle, _ => s.ignoreDone

end Sys2Proof.Machine
end

