-- ==== Sys2Proof/Machine/Completions.lean ====
section
/-! DEFINITION. Machine/Completions: REPLY and the DONE rows (spec/42_read_channel.md rules R85, R87 and R90; spec/30_encoding.md
rule R51).  All of them are the event `Done(_)`: the guard of rule R80 says which step the event is. -/

namespace Sys2Proof.Machine

/-- REPLY: the reply frame with these fields (rules R51, R73), handed over by a successful completion (log entry 9). -/
def execReply (n0 : BitVec 8) (n1 : BitVec 6) (h : BitVec 2) (l : BitVec 8) (s : State) : Answer :=
  .next (onCompletion (.ok (replyFrame n0 n1 h l)) s)

/-- COMPLETE_OK (rule R85). -/
def execCompleteOk (R : Frame) (s : State) : Answer := .next (onCompletion (.ok R) s)

/-- COMPLETE_FAULT (rules R87, R88, R95). -/
def execCompleteFault (f : FaultT) (s : State) : Answer := .next (onCompletion (.fault f) s)

/-- IGNORE_DONE (rule R90). -/
def execIgnoreDone (d : Completion) (s : State) : Answer := .next (onCompletion d s)

end Sys2Proof.Machine
end

