-- ==== Sys2Proof/Machine/Control.lean ====
section
/-! DEFINITION. Machine/Control: the CTRL row, RESET (spec/70_reset_and_hazards.md rule R110). -/

namespace Sys2Proof.Machine

/-- RESET, in any state (rule R110). -/
def execReset (s : State) : Answer := .next s.resetBlock

end Sys2Proof.Machine
end

