-- ==== Sys2Proof/Machine/Frames.lean ====
section
/-! DEFINITION. Machine/Frames: the CMD24 rows.  A command frame is what the step ISSUE emits (spec/42_read_channel.md rule R82,
spec/30_encoding.md rules R46 to R49), so running a frame's row is that step: it is ISSUE when IDLE, and when BUSY no second
transaction may start and the request is held (rules R31, R84, R89; log entry 7). -/

namespace Sys2Proof.Machine

/-- READ_SE8: the pattern `00000001 1ccc0000 00000000` (rules R50, R71). -/
def execReadSe8 (c : BitVec 3) (s : State) : Answer :=
  .next (onRequest (.ch8 c) (cmdFrame8 c) s)

/-- READ_SE4: the pattern `00000001 10cc0000 00000000` (rules R50, R71). -/
def execReadSe4 (c : BitVec 2) (s : State) : Answer :=
  .next (onRequest (.ch4 c) (cmdFrame4 c) s)

/-- READ_SE8.CH0: `[0x01, 0x80, 0x00]` (rule R49). -/
def execReadSe8Ch0 (s : State) : Answer :=
  .next (onRequest (.ch8 0#3) ⟨0x01#8, 0x80#8, 0x00#8⟩ s)

/-- READ_SE8.CH1: `[0x01, 0x90, 0x00]` (rule R49). -/
def execReadSe8Ch1 (s : State) : Answer :=
  .next (onRequest (.ch8 1#3) ⟨0x01#8, 0x90#8, 0x00#8⟩ s)

/-- READ_SE8.CH2: `[0x01, 0xA0, 0x00]` (rule R49). -/
def execReadSe8Ch2 (s : State) : Answer :=
  .next (onRequest (.ch8 2#3) ⟨0x01#8, 0xA0#8, 0x00#8⟩ s)

/-- READ_SE8.CH3: `[0x01, 0xB0, 0x00]` (rule R49). -/
def execReadSe8Ch3 (s : State) : Answer :=
  .next (onRequest (.ch8 3#3) ⟨0x01#8, 0xB0#8, 0x00#8⟩ s)

/-- READ_SE8.CH4: `[0x01, 0xC0, 0x00]` (rule R49). -/
def execReadSe8Ch4 (s : State) : Answer :=
  .next (onRequest (.ch8 4#3) ⟨0x01#8, 0xC0#8, 0x00#8⟩ s)

/-- READ_SE8.CH5: `[0x01, 0xD0, 0x00]` (rule R49). -/
def execReadSe8Ch5 (s : State) : Answer :=
  .next (onRequest (.ch8 5#3) ⟨0x01#8, 0xD0#8, 0x00#8⟩ s)

/-- READ_SE8.CH6: `[0x01, 0xE0, 0x00]` (rule R49). -/
def execReadSe8Ch6 (s : State) : Answer :=
  .next (onRequest (.ch8 6#3) ⟨0x01#8, 0xE0#8, 0x00#8⟩ s)

/-- READ_SE8.CH7: `[0x01, 0xF0, 0x00]` (rule R49). -/
def execReadSe8Ch7 (s : State) : Answer :=
  .next (onRequest (.ch8 7#3) ⟨0x01#8, 0xF0#8, 0x00#8⟩ s)

/-- READ_SE4.CH0: `[0x01, 0x80, 0x00]` (rule R49). -/
def execReadSe4Ch0 (s : State) : Answer :=
  .next (onRequest (.ch4 0#2) ⟨0x01#8, 0x80#8, 0x00#8⟩ s)

/-- READ_SE4.CH1: `[0x01, 0x90, 0x00]` (rule R49). -/
def execReadSe4Ch1 (s : State) : Answer :=
  .next (onRequest (.ch4 1#2) ⟨0x01#8, 0x90#8, 0x00#8⟩ s)

/-- READ_SE4.CH2: `[0x01, 0xA0, 0x00]` (rule R49). -/
def execReadSe4Ch2 (s : State) : Answer :=
  .next (onRequest (.ch4 2#2) ⟨0x01#8, 0xA0#8, 0x00#8⟩ s)

/-- READ_SE4.CH3: `[0x01, 0xB0, 0x00]` (rule R49). -/
def execReadSe4Ch3 (s : State) : Answer :=
  .next (onRequest (.ch4 3#2) ⟨0x01#8, 0xB0#8, 0x00#8⟩ s)

end Sys2Proof.Machine
end

