-- ==== Sys2Proof/Machine/Requests.lean ====
section
/-! DEFINITION. Machine/Requests: the REQ rows, ISSUE and HOLD (spec/42_read_channel.md rules R82 and R89).  All of them are the event
`Req(c)`: the guard of rule R80 says which step the event is. -/

namespace Sys2Proof.Machine

/-- ISSUE.CH8 (rule R82). -/
def execIssueCh8 (c : BitVec 3) (s : State) : Answer :=
  .next (onRequest (.ch8 c) (encodeFrame (.ch8 c)) s)

/-- ISSUE.CH4 (rule R82). -/
def execIssueCh4 (c : BitVec 2) (s : State) : Answer :=
  .next (onRequest (.ch4 c) (encodeFrame (.ch4 c)) s)

/-- HOLD (rule R89). -/
def execHold (c : Channel) (s : State) : Answer :=
  .next (onRequest c (encodeFrame c) s)

end Sys2Proof.Machine
end

