-- ==== Sys2Proof/Machine/Dispatch.lean ====
section
/-! DEFINITION. Machine/Dispatch: one arm per constructor of Instr. -/

namespace Sys2Proof.Machine

def exec (i : Instr) (s : State) : Host.Outcome State Fault Refusal :=
  match i with
  | .readSe8 c => Sys2Proof.Machine.execReadSe8 c s
  | .readSe4 c => Sys2Proof.Machine.execReadSe4 c s
  | .readSe8Ch0 => Sys2Proof.Machine.execReadSe8Ch0 s
  | .readSe8Ch1 => Sys2Proof.Machine.execReadSe8Ch1 s
  | .readSe8Ch2 => Sys2Proof.Machine.execReadSe8Ch2 s
  | .readSe8Ch3 => Sys2Proof.Machine.execReadSe8Ch3 s
  | .readSe8Ch4 => Sys2Proof.Machine.execReadSe8Ch4 s
  | .readSe8Ch5 => Sys2Proof.Machine.execReadSe8Ch5 s
  | .readSe8Ch6 => Sys2Proof.Machine.execReadSe8Ch6 s
  | .readSe8Ch7 => Sys2Proof.Machine.execReadSe8Ch7 s
  | .readSe4Ch0 => Sys2Proof.Machine.execReadSe4Ch0 s
  | .readSe4Ch1 => Sys2Proof.Machine.execReadSe4Ch1 s
  | .readSe4Ch2 => Sys2Proof.Machine.execReadSe4Ch2 s
  | .readSe4Ch3 => Sys2Proof.Machine.execReadSe4Ch3 s
  | .reply n0 n1 h l => Sys2Proof.Machine.execReply n0 n1 h l s
  | .issueCh8 c => Sys2Proof.Machine.execIssueCh8 c s
  | .issueCh4 c => Sys2Proof.Machine.execIssueCh4 c s
  | .hold c => Sys2Proof.Machine.execHold c s
  | .completeOk r => Sys2Proof.Machine.execCompleteOk r s
  | .completeFault f => Sys2Proof.Machine.execCompleteFault f s
  | .ignoreDone d => Sys2Proof.Machine.execIgnoreDone d s
  | .reset => Sys2Proof.Machine.execReset s

end Sys2Proof.Machine
end

