-- ==== Sys2Proof/Machine/Fetch.lean ====
section
/-! DEFINITION. Machine/Fetch: which of the presented words a step takes, what the step leaves presented, and the step itself
(spec/60_exceptions.md rule R99; spec/10_state.md rule R25; log entries 3, 4, 6, 20 and 22).  The block has no program counter and
fetches no instructions (rule R16): a step takes one input event. -/

namespace Sys2Proof.Machine

/-- The priority of rule R99, 1 the highest.  The reply bytes belong to the completion (log entry 9), and a command frame to the
request whose ISSUE emits it (log entry 7). -/
def portPriority : PortWord → Nat
  | .rst _ => 1
  | .done _ _ => 2
  | .readOp _ => 2
  | .reqCh _ => 3
  | .busWdata _ => 3
  | .writeOp _ => 3

/-- The word presents an event: `rst = 0` is none (rule R28). -/
def isEvent (w : PortWord) : Bool := w != .rst [0#8]

/-- The word presents an event of priority `k`. -/
def hasPriority (k : Nat) (w : PortWord) : Bool := portPriority w == k && isEvent w

/-- The word is one of the port's DONE words, which carry `bus_ok`. -/
def isDone : PortWord → Bool
  | .done _ _ => true
  | .rst _ => false
  | .readOp _ => false
  | .reqCh _ => false
  | .busWdata _ => false
  | .writeOp _ => false

/-- The bytes of a word on the request port. -/
def requestBytes? : PortWord → Option (List Byte)
  | .reqCh bs => some bs
  | .rst _ => none
  | .done _ _ => none
  | .readOp _ => none
  | .busWdata _ => none
  | .writeOp _ => none

/-- The cycle presents a reset, a completion, a request (rule R99's three priorities). -/
def presentsReset (cyc : Cycle) : Bool := cyc.any (hasPriority 1)
/-- See `presentsReset`. -/
def presentsCompletion (cyc : Cycle) : Bool := cyc.any (hasPriority 2)
/-- See `presentsReset`. -/
def presentsRequest (cyc : Cycle) : Bool := cyc.any (hasPriority 3)

/-- The words presented in the coming step. -/
def State.cycle (s : State) : Cycle := s.inputs.headD []

/-- What stands on the request port in the coming step: what the requester presents now, or else what it has kept
presented (rules R25, R81, R117).  A CMD24 word is on no port of the requester and never stands here (log entry 22). -/
def State.presentedReq (s : State) : Option (List Byte) := (s.cycle.findSome? requestBytes?).or s.req

/-- The word the step takes, in rule R99's order; `none` when nothing is presented.  Of the completions a DONE word goes first, so that
`bus_ok` decides wherever it is presented (rule R54); of the requests what stands on the request port goes first, so that a CMD24
word never displaces a presented or held request (rule R117, log entry 22). -/
def State.fetch (s : State) : Option PortWord :=
  (s.cycle.find? (hasPriority 1)).or <|
  (s.cycle.find? isDone).or <|
  (s.cycle.find? (hasPriority 2)).or <|
  (s.presentedReq.map .reqCh).or <|
  s.cycle.find? (hasPriority 3)

/-- The state a step's meaning starts from: the cycle is over, the request port holds what is presented on it, and the outputs
of the step before are gone (each is high for one step, rules R26, R27). -/
def State.advance (s : State) : State :=
  { s with inputs := s.inputs.tail, req := s.presentedReq, outputs := [] }

/-- What a word that is no row ends a step with.  Rule R56 gives the fault for a never-emitted word on `bus_wdata` while PHASE = BUSY; that it
is raised in IDLE too and for `Write(F)`, where the spec says nothing of such a word, is the model's choice (log entry 12).  `bus_wdata` itself is
CMD_REG (rule R27): what is judged here is a word presented to the model, never the block's own 0x000000 after reset. -/
def stopOf : Reject → Answer
  | .neverEmittedFrame g => .fault (.implementationUnderTest g)
  | .badLength => .refused (.noPortWord .badLength)
  | .strayBits => .refused (.noPortWord .strayBits)
  | .rstLow => .refused (.noPortWord .rstLow)
  | .codeTooWide => .refused (.noPortWord .codeTooWide)

/-- The row of the word that a step of a block of variant `v` takes, `none` when nothing is presented or the word is no row. -/
def State.fetchRow (v : Variant) (s : State) : Option Instr :=
  match s.fetch with
  | none => none
  | some w => (decode v s.phase w).toOption

/-- One atomic step of a block built with VARIANT = `v` (rules R5, R14), which the step reads from this parameter and nowhere else: the
presented event of highest priority runs as its row; with nothing presented the block does nothing (rules R84, R107; log entry 6). -/
def stepOf (v : Variant) (s : State) : Answer :=
  match s.fetch with
  | none => .next s.advance
  | some w =>
    match decode v s.phase w with
    | .ok i => exec i s.advance
    | .error e => stopOf e

/-- The word is taken only where the request port is empty: a CMD24 word (log entry 22). -/
def requestFirst : PortWord → Bool
  | .busWdata _ => true
  | .writeOp _ => true
  | .rst _ => false
  | .done _ _ => false
  | .readOp _ => false
  | .reqCh _ => false

/-- The state made ready for a row: the phase its guard asks for.  A completion answers an outstanding transaction, so where there is
none one for channel 0 is put there (log entry 15). -/
def State.readyFor (i : Instr) (s : State) : State :=
  match i.guardPhase, s.phase with
  | none, _ => s
  | some .idle, _ => { s with phase := .idle }
  | some .busy, .busy => s
  | some .busy, .idle => { s with phase := .busy, cmdReg := (encodeFrame (.ch8 0#3)).word24 }

end Sys2Proof.Machine
end

