-- ==== Sys2Proof/Machine/Step.lean ====
section
/-! DEFINITION. Machine/Step: the step of the machine behind the host's interface, and the words the host places. -/

namespace Sys2Proof.Machine

/-- One atomic step (rule R14) of the machine behind the host's interface, which takes no parameter: the CH8 block's (log entry 1).
`stepOf` is the step for either VARIANT. -/
def step (s : State) : Host.Outcome State Fault Refusal := stepOf .ch8 s

/-- `s` with a table word presented in the coming step, and ready for its row (log entry 15).  A number that is no table
word changes nothing. -/
def State.withFetchWord (s : State) (nbits w : Nat) : State :=
  match tableWord nbits w with
  | none => s
  | some (pw, i) =>
    let t := s.readyFor i
    { t with inputs := [pw] :: t.inputs, req := if requestFirst pw then none else t.req }

end Sys2Proof.Machine
end

