-- ==== Sys2Proof/Machine/Block.lean ====
section
/-! DEFINITION. Machine/Block: the spec's own Lean reading of the step (spec/42_read_channel.md rule R93) and its table of steps
(rule R80), written beside the machine so that the machine can be proved to refine them.  The machine does not call the Lean
reading. -/

namespace Sys2Proof.Machine

/-- The block's state of rule R93. -/
structure Block where
  phase : Phase
  cmd : Word24
deriving DecidableEq, Repr

/-- The block inside the machine's state. -/
def State.block (s : State) : Block := { phase := s.phase, cmd := s.cmdReg }

/-- The step of rule R93's table: `none` where the step is not enabled and the requester holds. -/
def blockStep : Block → Input → Option (Block × List Output)
  | _, .rst => some (⟨.idle, 0⟩, [])
  | ⟨.idle, _⟩, .req c => some (⟨.busy, (encodeFrame c).word24⟩, [.busReq [.write (encodeFrame c), .read 3]])
  | ⟨.busy, _⟩, .req _ => none
  | ⟨.busy, cmd⟩, .done (.ok R) => some (⟨.idle, cmd⟩, [.rsp (.ok (decodeFrame R))])
  | ⟨.busy, cmd⟩, .done (.fault f) => some (⟨.idle, cmd⟩, [.rsp (.err f)])
  | ⟨.idle, cmd⟩, .done _ => some (⟨.idle, cmd⟩, [])

/-- The steps of rule R80. -/
inductive StepKind where
  | issue
  | hold
  | completeOk
  | completeFault
  | ignoreDone
  | reset
deriving DecidableEq, Repr

/-- Which step an input event is in a phase (rule R80's guards). -/
def stepKind : Phase → Input → StepKind
  | .idle, .req _ => .issue
  | .busy, .req _ => .hold
  | .busy, .done (.ok _) => .completeOk
  | .busy, .done (.fault _) => .completeFault
  | .idle, .done _ => .ignoreDone
  | _, .rst => .reset

end Sys2Proof.Machine
end

