-- ==== Sys2Proof/Machine/Platform.lean ====
section
/-! DEFINITION. Machine/Platform: several blocks in one system (spec/60_exceptions.md rule R105).  Each has its own state, and one takes a
step at a time; the order is the platform's (log entry 19).  Where several reach one physical bus, the collaborator serialises their
transactions, each under its own chip select (rules R105, R116). -/

namespace Sys2Proof.Machine

/-- The blocks of a system, by their states. -/
abbrev Platform := List State

/-- The VARIANT each block of a system is built with, by the block's number: a parameter of the system (rule R5). -/
abbrev Build := Nat → Variant

/-- Block `k` takes a step.  A block that stops, or a number that is no block's, leaves the system as it is. -/
def Platform.stepAt (build : Build) (p : Platform) (k : Nat) : Platform :=
  match p[k]? with
  | none => p
  | some s =>
    match stepOf (build k) s with
    | .next t => p.set k t
    | .fault _ => p
    | .refused _ => p

/-! ### Several blocks on one physical bus -/

/-- What the collaborator does with the chip selects of a shared bus: it asserts block `k`'s own one and sends the command frame `F`,
or it releases it (rules R32, R105). -/
inductive BusMark where
  | select (k : Nat) (F : Frame)
  | release (k : Nat)
deriving DecidableEq, Repr

/-- No two transactions overlap on the wire (rules R105, R116): between one assertion of a chip select and its release there is no
other mark.  `held` is the block whose chip select is asserted before the marks begin. -/
def serialised : Option Nat → List BusMark → Bool
  | _, [] => true
  | none, .select k _ :: ms => serialised (some k) ms
  | none, .release _ :: _ => false
  | some _, .select _ _ :: _ => false
  | some k, .release j :: ms => j == k && serialised none ms

/-- Blocks that reach one physical bus through one collaborator (rule R105).  Requests of several may be outstanding at once: `waiting`
holds the transactions issued and not yet begun, with their blocks, oldest first, and `active` the one on the wire.  A transaction that
a reset abandoned stays here (rule R111, 93_implementation_defined.md U4). -/
structure SharedBus where
  blocks : Platform
  waiting : List (Nat × Frame)
  active : Option (Nat × Frame)
deriving DecidableEq, Repr

/-- What can happen next.  Which transaction the collaborator begins, and what it answers, is free (91_not_in_source.md N15; log
entry 19). -/
inductive BusAction where
  /-- Block `k` takes a step. -/
  | step (k : Nat)
  /-- The collaborator begins the waiting transaction number `j`. -/
  | start (j : Nat)
  /-- The collaborator ends the transaction on the wire with the completion `d`. -/
  | finish (d : Completion)
deriving DecidableEq, Repr

/-- The command frame of a transaction that an output event starts. -/
def Output.command? : Output → Option Frame
  | .busReq (.write F :: _) => some F
  | .busReq (.read _ :: _) => none
  | .busReq [] => none
  | .rsp _ => none

/-- The transactions block `k` issues in its next step. -/
def Platform.issuedBy (build : Build) (p : Platform) (k : Nat) : List (Nat × Frame) :=
  match p[k]? with
  | none => []
  | some s =>
    match stepOf (build k) s with
    | .next t => (t.outputs.filterMap Output.command?).map (fun F => (k, F))
    | .fault _ => []
    | .refused _ => []

/-- A completion presented to a block in its coming step (rule R83). -/
def State.deliver (d : Completion) (s : State) : State :=
  { s with inputs := (encodeCompletion d :: s.cycle) :: s.inputs.tail }

/-- One action on a shared bus, with the marks it leaves.  An action that cannot happen changes nothing: nothing begins while a
transaction is on the wire, and a completion waits for the block to have taken the one before. -/
def SharedBus.act (build : Build) (b : SharedBus) : BusAction → SharedBus × List BusMark
  | .step k => ({ b with blocks := b.blocks.stepAt build k, waiting := b.waiting ++ b.blocks.issuedBy build k }, [])
  | .start j =>
    match b.active, b.waiting[j]? with
    | none, some x => ({ b with waiting := b.waiting.eraseIdx j, active := some x }, [.select x.1 x.2])
    | none, none => (b, [])
    | some _, _ => (b, [])
  | .finish d =>
    match b.active with
    | none => (b, [])
    | some x =>
      match b.blocks[x.1]? with
      | none => ({ b with active := none }, [.release x.1])
      | some s =>
        if presentsCompletion s.cycle then (b, [])
        else ({ b with blocks := b.blocks.set x.1 (s.deliver d), active := none }, [.release x.1])

/-- The actions in turn, with all their marks. -/
def SharedBus.run (build : Build) : List BusAction → SharedBus → SharedBus × List BusMark
  | [], b => (b, [])
  | a :: as, b => ((SharedBus.run build as (b.act build a).1).1, (b.act build a).2 ++ (SharedBus.run build as (b.act build a).1).2)

/-- The transactions that the blocks issue in the course of the actions, with their blocks. -/
def SharedBus.issued (build : Build) : List BusAction → SharedBus → List (Nat × Frame)
  | [], _ => []
  | .step k :: as, b => b.blocks.issuedBy build k ++ SharedBus.issued build as (b.act build (.step k)).1
  | .start j :: as, b => SharedBus.issued build as (b.act build (.start j)).1
  | .finish d :: as, b => SharedBus.issued build as (b.act build (.finish d)).1

/-- The transaction that a mark begins. -/
def BusMark.begun? : BusMark → Option (Nat × Frame)
  | .select k F => some (k, F)
  | .release _ => none

end Sys2Proof.Machine
end

