-- ==== Sys2Proof/Machine/Wire.lean ====
section
/-! DEFINITION. Machine/Wire: the bus collaborator's duties on the wire (spec/20_memory.md rules R32 to R34 and R37, spec/00_scope.md rule
R7): what one transaction looks like between the assertion and the release of chip select.  No rule of the block reads this
file; timing, pins and clock generation are out of scope (rule R4; log entry 16). -/

namespace Sys2Proof.Machine

/-- What happens on the wire, in order.  A clock carries a bit out (MOSI), a bit in (MISO), or both; `none` is a line whose level
the spec does not give. -/
inductive WireEvent where
  | select
  | clock (mosi miso : Option Bool)
  | release
deriving DecidableEq, Repr

/-- The SPI mode: clock polarity and phase (rule R37). -/
structure SpiMode where
  cpol : BitVec 1
  cpha : BitVec 1
deriving DecidableEq, Repr

/-- Clock idle-low, data captured on the first edge: CPOL = 0, CPHA = 0 (rules R37, R114). -/
def wireMode : SpiMode := { cpol := 0#1, cpha := 0#1 }

/-- A byte's bits in the order they travel, bit 7 first (rule R34). -/
def byteBits (b : Byte) : List Bool :=
  [b.getLsbD 7, b.getLsbD 6, b.getLsbD 5, b.getLsbD 4, b.getLsbD 3, b.getLsbD 2, b.getLsbD 1, b.getLsbD 0]

/-- A frame's bits in the order they travel, byte 0 first (rule R33). -/
def frameBits (F : Frame) : List Bool := byteBits F.b0 ++ byteBits F.b1 ++ byteBits F.b2

/-- The byte whose bits arrived in this order (rule R34). -/
def byteOfBits (bits : List Bool) : Byte :=
  BitVec.ofNat 8 (bits.foldl (fun a b => 2 * a + b.toNat) 0)

/-- The frame whose 24 bits arrived in this order; there is no shorter and no longer reply (rule R38). -/
def frameOfBits (bits : List Bool) : Option Frame :=
  if bits.length = 24 then
    some ⟨byteOfBits (bits.take 8), byteOfBits ((bits.drop 8).take 8), byteOfBits (bits.drop 16)⟩
  else none

/-- One transaction `[Write(F), Read(3)]` on the wire, answered with the reply frame R, under each TXN_SHAPE (rules R7, R32). -/
def wire (shape : TxnShape) (F R : Frame) : List WireEvent :=
  match shape with
  | .writeThenRead =>
    [.select] ++ (frameBits F).map (fun b => .clock (some b) none)
      ++ (frameBits R).map (fun b => .clock none (some b)) ++ [.release]
  | .simultaneous =>
    [.select] ++ List.zipWith (fun o i => .clock (some o) (some i)) (frameBits F) (frameBits R) ++ [.release]

/-- The bits a wire event carries to the device. -/
def WireEvent.mosi : WireEvent → Option Bool
  | .clock o _ => o
  | .select => none
  | .release => none

/-- The bits a wire event carries from the device. -/
def WireEvent.miso : WireEvent → Option Bool
  | .clock _ i => i
  | .select => none
  | .release => none

/-- The event is a clock. -/
def WireEvent.isClock : WireEvent → Bool
  | .clock _ _ => true
  | .select => false
  | .release => false

/-- Chip select is asserted before the first bit and held until after the last (rules R32, R115): nothing but clocks stands
between one assertion and one release. -/
def chipSelectHeld (es : List WireEvent) : Bool :=
  match es with
  | .select :: rest => rest.getLast? == some .release && rest.dropLast.all WireEvent.isClock
  | .clock _ _ :: _ => false
  | .release :: _ => false
  | [] => false

end Sys2Proof.Machine
end

