-- ==== Sys2Proof/Safety.lean ====
section
/-! DEFINITION. Safety: the terms the statements are made in: the monitor of rule R56, the invariant of rule R21, what the outside
presents, the duties of requester and collaborator, the trace of a run, and the assumption BUS_LIVENESS. -/

namespace Sys2Proof.Machine

/-- A monitor on `bus_wdata` of a block of variant `v` (rule R56): while BUSY, a word outside rule R50's pattern is reported by its group. -/
def monitor (v : Variant) (s : State) : Option FrameGroup :=
  match s.phase with
  | .idle => none
  | .busy =>
    if s.cmdReg &&& cmdMask v = cmdMatch v then none else some (neverEmitted v s.cmdReg)

/-- Rule R21: while BUSY, CMD_REG is the frame of some channel of the block's variant `v`. -/
def CommandIsFrame (v : Variant) (s : State) : Prop :=
  s.phase = .busy → ∃ c : Channel, c.variant = v ∧ s.cmdReg = (encodeFrame c).word24

/-- The outputs of one step are at most one event: a transaction of the frame in CMD_REG, which leaves the block BUSY, or
a response, which leaves it IDLE (rules R82, R85, R87). -/
def OutputsFitPhase (s : State) : Prop :=
  s.outputs = [] ∨
  (∃ F, s.outputs = [.busReq (txnOf F)] ∧ s.phase = .busy ∧ s.cmdReg = F.word24) ∨
  (∃ r, s.outputs = [.rsp r] ∧ s.phase = .idle)

/-- The invariant of the machine built with VARIANT = `v`. -/
def BlockInv (v : Variant) (s : State) : Prop := CommandIsFrame v s ∧ OutputsFitPhase s

/-- The cycle presents neither a reset nor a completion. -/
def quiet (cyc : Cycle) : Bool := !presentsReset cyc && !presentsCompletion cyc

/-- The word is one its carrier can carry: it decodes, or it is `rst = 0`. -/
def legalWord (v : Variant) (w : PortWord) : Bool :=
  !isEvent w || (match decode v .idle w with | .ok _ => true | .error _ => false)

/-- Every word of the cycle is legal. -/
def legalCycle (v : Variant) (cyc : Cycle) : Bool := cyc.all (legalWord v)

/-- Everything the outside presents, now and later, is legal on a block of variant `v`. -/
def LegalInputs (v : Variant) (s : State) : Prop :=
  (∀ cyc ∈ s.inputs, legalCycle v cyc = true) ∧
  ∀ bs, s.req = some bs → legalWord v (.reqCh bs) = true

/-- The requester keeps a held request presented with its code unchanged (rule R81). -/
def requesterConforms (s : State) : Bool :=
  match s.req with
  | none => true
  | some bs => s.presentedReq == some bs

/-- The machine built with the parameter VARIANT = `v` (rule R5).  Its states and its reset are those of either variant; its step takes `v`.
`Sys2Proof.core` is the CH8 block. -/
def coreOf (v : Variant) : Host.Core :=
  { Sys2Proof.core with step := stepOf v }

/-- `n` steps of the machine of variant `v`, as the host runs one. -/
def runN (v : Variant) (n : Nat) (s : State) : Answer := Host.Core.run (coreOf v) n s

/-- The output events of the first `n` steps, in order, as far as they run. -/
def trace (v : Variant) : Nat → State → List Output
  | 0, _ => []
  | n + 1, s =>
    match stepOf v s with
    | .next t => t.outputs ++ trace v n t
    | .fault _ => []
    | .refused _ => []

/-- How many transactions a list of events holds. -/
def txnCount (os : List Output) : Nat := (os.filterMap Output.txn?).length

/-- How many responses a list of events holds. -/
def rspCount (os : List Output) : Nat := (os.filterMap Output.response?).length

/-- The transactions outstanding: one when BUSY (rule R19). -/
def outstanding (s : State) : Nat :=
  match s.phase with
  | .idle => 0
  | .busy => 1

/-- How many of the first `n` steps are a reset that abandons a transaction (rule R111). -/
def abandonCount (v : Variant) : Nat → State → Nat
  | 0, _ => 0
  | n + 1, s =>
    match stepOf v s with
    | .next t => (if presentsReset s.cycle then outstanding s else 0) + abandonCount v n t
    | .fault _ => 0
    | .refused _ => 0

/-- Transactions and responses alternate, a transaction first when IDLE and its response first when BUSY (rules R40, R100). -/
def alternates : Phase → List Output → Bool
  | _, [] => true
  | .idle, .busReq _ :: os => alternates .busy os
  | .idle, .rsp _ :: _ => false
  | .busy, .rsp _ :: os => alternates .idle os
  | .busy, .busReq _ :: _ => false

/-- How many transactions the collaborator owes a completion after a step from `s` to `t`, when it owed `o` before: a completion presented
pays one, a transaction started adds one.  An abandoned transaction stays owed (rule R111, 93_implementation_defined.md U4). -/
def owedNext (o : Nat) (s t : State) : Nat :=
  (if presentsCompletion s.cycle then o - 1 else o) + txnCount t.outputs

/-- How many it owes after `n` steps. -/
def owed (v : Variant) (o : Nat) : Nat → State → Nat
  | 0, _ => o
  | n + 1, s =>
    match stepOf v s with
    | .next t => owed v (owedNext o s t) n t
    | .fault _ => o
    | .refused _ => o

/-- The collaborator's duty of rule R83, through every run: it presents a completion only for a transaction that it still owes one, never
in the step that issues it.  A stale completion after a reset is such a one (93_implementation_defined.md U4). -/
def CollaboratorConforms (v : Variant) (o : Nat) (s : State) : Prop :=
  ∀ n u, runN v n s = .next u → presentsCompletion u.cycle = true → 0 < owed v o n s

/-- BUS_LIVENESS (rule R8), as a premise about what is presented: at every point of every run, the coming cycles present a completion for
each transaction the block has issued and the collaborator still owes one.  `stepOf` does not assume it (log entry 21). -/
def BusLiveness (v : Variant) (o : Nat) (s : State) : Prop :=
  ∀ n u, runN v n s = .next u → owed v o n s ≤ u.inputs.countP presentsCompletion

/-- The response a completion gives (rules R85, R87, R92). -/
def answerOf : Completion → Response
  | .ok R => .ok (decodeFrame R)
  | .fault f => .err f

/-- The two states are the same but for CMD_REG while IDLE, which no rule and no port reads (rule R20). -/
def sameButIdleCommand (s t : State) : Prop :=
  { s with cmdReg := 0 } = { t with cmdReg := 0 } ∧ (s.phase = .busy → s.cmdReg = t.cmdReg)

end Sys2Proof.Machine
end

