-- ==== Sys2Proof/Certificates/Slice0/Obligations.lean ====
section
/-! DEFINITION. Obligations: the statements about the machine, each after the rule or section of spec/ it formalises.
A statement marked "derived" in OBLIGATIONS.json rests on a decision or a derivation the spec marks as its own, or on a
choice of the model whose log entry its docstring names. -/

open Sys2Proof Sys2Proof.Machine

/-! ### Frame codec -/

/-- Rule R71: ENCODE builds `[0x01, (0x08 | c) << 4, 0x00]`, with nothing shifted out of byte 1, and its corner cases. -/
def Obligations.EncodeBuildsTheCommandFrame : Prop :=
  (∀ c : Channel,
    (encodeFrame c).b0 = 0x01#8 ∧
    (encodeFrame c).b1 = (0x08#8 ||| c.code8) <<< 4 ∧
    (encodeFrame c).b1.toNat = (8 + c.code8.toNat) * 16 ∧
    (encodeFrame c).b2 = 0x00#8 ∧
    (encodeFrame c).b1.extractLsb' 0 4 = 0#4) ∧
  (∀ c : BitVec 3, 0x80#8 ≤ (encodeFrame (.ch8 c)).b1 ∧ (encodeFrame (.ch8 c)).b1 ≤ (encodeFrame (.ch8 7#3)).b1) ∧
  (∀ c : BitVec 2, (encodeFrame (.ch4 c)).b1 ≤ (encodeFrame (.ch4 3#2)).b1 ∧
    (encodeFrame (.ch4 c)).b1.extractLsb' 6 1 = 0#1) ∧
  (encodeFrame (.ch8 0#3)).b1 = 0x80#8 ∧ (encodeFrame (.ch4 0#2)).b1 = 0x80#8 ∧
  (encodeFrame (.ch8 7#3)).b1 = 0xF0#8 ∧ (encodeFrame (.ch4 3#2)).b1 = 0xB0#8 ∧
  encodeFrame (.ch8 5#3) = ⟨0x01#8, 0xD0#8, 0x00#8⟩

/-- Rules R46 and R48: the fields of the emitted `word24`, and the channel code placed unsigned and unscaled. -/
def Obligations.CommandFrameFieldLayout : Prop :=
  ∀ c : Channel,
    (encodeFrame c).word24.extractLsb' 17 7 = 0#7 ∧
    (encodeFrame c).word24.extractLsb' 16 1 = 1#1 ∧
    (encodeFrame c).word24.extractLsb' 15 1 = 1#1 ∧
    (encodeFrame c).word24.extractLsb' 12 3 = c.code8.extractLsb' 0 3 ∧
    ((encodeFrame c).word24.extractLsb' 12 3).toNat = c.code8.toNat ∧
    (encodeFrame c).word24.extractLsb' 8 4 = 0#4 ∧
    (encodeFrame c).word24.extractLsb' 0 8 = 0#8 ∧
    (encodeFrame c).b1 = 0x80#8 ||| (c.code8 <<< 4) ∧
    (encodeFrame c).b1 = (0x08#8 ||| c.code8) <<< 4 ∧
    0x08#8 ||| c.code8 ≤ 0x0F#8

/-- Rules R47 and R72 (derived there): ENCODE is injective on a variant's channels, the code is read back from byte 1, and
a CH4 frame is bit for bit the CH8 frame of the same code. -/
def Obligations.EncodeIsInjectiveAndShared : Prop :=
  (∀ c d : Channel, c.variant = d.variant → encodeFrame c = encodeFrame d → c = d) ∧
  (∀ c : BitVec 3, (encodeFrame (.ch8 c)).b1.extractLsb' 4 3 = c) ∧
  (∀ c : BitVec 2, (encodeFrame (.ch4 c)).b1.extractLsb' 4 3 = c.zeroExtend 3) ∧
  (∀ c : BitVec 2, encodeFrame (.ch4 c) = encodeFrame (.ch8 (c.zeroExtend 3)))

/-- Rule R50 (derived there): a word is a frame the block can emit exactly when it passes the variant's match and mask,
and then its channel bits are the code. -/
def Obligations.MatchAndMaskCharacteriseCommandFrames : Prop :=
  ∀ (v : Variant) (w : Word24),
    (w &&& cmdMask v = cmdMatch v ↔ ∃ c : Channel, c.variant = v ∧ w = (encodeFrame c).word24) ∧
    ∀ c : Channel, c.variant = v → w = (encodeFrame c).word24 →
      match c with
      | .ch8 b => w.extractLsb' 12 3 = b
      | .ch4 b => w.extractLsb' 12 2 = b

/-- Rule R73: DECODE keeps bits 9:0 of the zero-extended bytes 1 and 2, reads neither byte 0 nor bits 7:2 of byte 1, and its
corner cases. -/
def Obligations.DecodeExtractsTheSample : Prop :=
  (∀ R : Frame,
    (decodeFrame R).toNat = ((R.b1.toNat * 256) ||| R.b2.toNat) &&& 0x3FF ∧
    (decodeFrame R).toNat ≤ 1023 ∧
    decodeFrame R = (R.b1.extractLsb' 0 2 ++ R.b2 : BitVec 10)) ∧
  (∀ (x y : Byte) (b1 b1' b2 : Byte), b1.extractLsb' 0 2 = b1'.extractLsb' 0 2 →
    decodeFrame ⟨x, b1, b2⟩ = decodeFrame ⟨y, b1', b2⟩) ∧
  (∀ x : Byte, decodeFrame ⟨x, 0x00#8, 0x00#8⟩ = 0#10 ∧ decodeFrame ⟨x, 0x03#8, 0xFF#8⟩ = 1023#10 ∧
    decodeFrame ⟨x, 0xFF#8, 0xFF#8⟩ = 1023#10) ∧
  decodeFrame ⟨0x00#8, 0x02#8, 0xFF#8⟩ = 767#10

/-- 30_encoding.md section 3: the fields of a reply; only the 10 data bits make the sample, zero-extended; every reply of three bytes is
legal.  That a reply's word is what `Read(3)` returned, read as the row REPLY, is the model's choice, log entry 9. -/
def Obligations.ReplyFieldsMakeTheSample : Prop :=
  (∀ (n0 : BitVec 8) (n1 : BitVec 6) (h : BitVec 2) (l : BitVec 8),
    (replyFrame n0 n1 h l).word24.extractLsb' 16 8 = n0 ∧ (replyFrame n0 n1 h l).word24.extractLsb' 10 6 = n1 ∧
    (replyFrame n0 n1 h l).word24.extractLsb' 8 2 = h ∧ (replyFrame n0 n1 h l).word24.extractLsb' 0 8 = l ∧
    decodeFrame (replyFrame n0 n1 h l) = (h ++ l : BitVec 10)) ∧
  (∀ R : Frame,
    decodeFrame R = R.word24.extractLsb' 0 10 ∧
    (decodeFrame R).zeroExtend 24 = R.word24 &&& 0x3FF#24 ∧
    (decodeFrame R).zeroExtend 16 = ((R.b1.zeroExtend 16 <<< 8) ||| R.b2.zeroExtend 16) &&& 0x03FF#16) ∧
  (∀ (v : Variant) (ph : Phase) (b0 b1 b2 : Byte), ∃ n0 n1 h l,
    decode v ph (.readOp [b0, b1, b2]) = .ok (.reply n0 n1 h l) ∧ replyFrame n0 n1 h l = ⟨b0, b1, b2⟩)

/-- Rules R74 and R75 (in part derived there): masking, byte 0 ignored, round trip, surjectivity, and the arithmetic form. -/
def Obligations.DecodeMaskingAndRoundTrip : Prop :=
  (∀ x b1 b2 : Byte, decodeFrame ⟨x, b1 ||| 0b11111100#8, b2⟩ = decodeFrame ⟨x, b1, b2⟩) ∧
  (∀ x y b1 b2 : Byte, decodeFrame ⟨x, b1, b2⟩ = decodeFrame ⟨y, b1, b2⟩) ∧
  (∀ x h b2 : Byte, h.toNat < 4 → (decodeFrame ⟨x, h, b2⟩).toNat = 256 * h.toNat + b2.toNat) ∧
  (∀ s : Sample, decodeFrame ⟨0x00#8, (s.extractLsb' 8 2).zeroExtend 8, s.extractLsb' 0 8⟩ = s) ∧
  (∀ R : Frame, (decodeFrame R).toNat = (R.b1.toNat % 4) * 256 + R.b2.toNat)

/-! ### Encodings -/

/-- Words written out from the formats of rules R49, R51, R53, R54 and R28 decode to the rows they stand for.  The fields and their bits are
the rules'; that `bus_wdata` gives the pattern rows and `Write(F)` the concrete ones is the model's choice, log entry 8, that a field
narrower than a byte stands right-aligned in a byte is log entry 13, and that REPLY's word is the return of `Read(3)` is log entry 9. -/
def Obligations.WrittenWordsDecode : Prop :=
  decode .ch8 .idle (.busWdata [0b00000001#8, 0b11010000#8, 0b00000000#8]) = .ok (.readSe8 0b101#3) ∧
  decode .ch4 .idle (.busWdata [0b00000001#8, 0b10110000#8, 0b00000000#8]) = .ok (.readSe4 0b11#2) ∧
  decode .ch8 .idle (.writeOp [0b00000001#8, 0b11110000#8, 0b00000000#8]) = .ok .readSe8Ch7 ∧
  decode .ch4 .idle (.writeOp [0b00000001#8, 0b10010000#8, 0b00000000#8]) = .ok .readSe4Ch1 ∧
  decode .ch8 .busy (.readOp [0x00#8, 0b11111110#8, 0xFF#8]) = .ok (.reply 0x00#8 0b111111#6 0b10#2 0xFF#8) ∧
  decode .ch8 .idle (.reqCh [0b101#8]) = .ok (.issueCh8 0b101#3) ∧
  decode .ch4 .idle (.reqCh [0b11#8]) = .ok (.issueCh4 0b11#2) ∧
  decode .ch8 .busy (.reqCh [0b010#8]) = .ok (.hold (.ch8 0b010#3)) ∧
  decode .ch8 .busy (.done 1#1 (.rdata 0x000123#24)) = .ok (.completeOk ⟨0x00#8, 0x01#8, 0x23#8⟩) ∧
  decode .ch8 .idle (.done 1#1 (.rdata 0x000200#24)) = .ok (.ignoreDone (.ok ⟨0x00#8, 0x02#8, 0x00#8⟩)) ∧
  (∀ f : FaultT, decode .ch8 .busy (.done 0#1 (.fault f)) = .ok (.completeFault f)) ∧
  decode .ch4 .busy (.rst [1#8]) = .ok .reset ∧
  decode .ch4 .idle (.reqCh [0b100#8]) = .error .codeTooWide

/-- The round trip: the word of a row decodes to the row, on every block that has the row and in every phase its guard
admits, for every value of its operands.  That CMD24's two carriers tell the pattern rows from the concrete frames is the
model's choice, log entry 8; the byte layout is log entry 13. -/
def Obligations.DecodeInvertsEncode : Prop :=
  ∀ (v : Variant) (ph : Phase) (i : Instr),
    wellFormed v i = true → i.enabledIn ph = true → decode v ph (encode i) = .ok i

/-- The other direction: what the decoder accepts is a row of the block's variant whose guard holds (rule R80), and the word is that
row's own: no two words decode to one row.  Which bytes are a word is the model's, log entries 8, 9 and 13. -/
def Obligations.DecodeAcceptsOnlyEnabledRowsWords : Prop :=
  ∀ (v : Variant) (ph : Phase) (w : PortWord) (i : Instr),
    decode v ph w = .ok i → wellFormed v i = true ∧ i.enabledIn ph = true ∧ encode i = w

/-- 30_encoding.md section 5 (decision D17): a command word on `bus_wdata` is rejected exactly when it fails match and mask, and the rejection
names a group of that section's table that holds of it.  That the `Write(F)` carrier rejects the same words, that the phase does not matter, and
which group is named where several hold, are the model's choice, log entry 12.  That the two carriers tell the pattern rows from the concrete
ones is log entry 8, and that a command-frame row stands for the request whose ISSUE emits it is log entry 7. -/
def Obligations.NeverEmittedWordsAreRejectedByGroup : Prop :=
  ∀ (v : Variant) (ph : Phase) (F : Frame),
    (F.word24 &&& cmdMask v ≠ cmdMatch v →
      ∃ g : FrameGroup, g.holds v F.word24 = true ∧
        decode v ph (.busWdata F.toBytes) = .error (.neverEmittedFrame g) ∧
        decode v ph (.writeOp F.toBytes) = .error (.neverEmittedFrame g)) ∧
    (F.word24 &&& cmdMask v = cmdMatch v →
      (∀ g : FrameGroup, g.holds v F.word24 = false) ∧
      ∃ c i j, c.variant = v ∧ F = encodeFrame c ∧ decode v ph (.busWdata F.toBytes) = .ok i ∧ inputOf i = .req c ∧
        decode v ph (.writeOp F.toBytes) = .ok j ∧ inputOf j = .req c)

/-- Rules R53 to R55 (decisions D4 to D6): the DONE word, the RESP word and the REQ word, field by field.  That a request code stands in one
byte is the model's choice, log entry 13. -/
def Obligations.PortWordFields : Prop :=
  (∀ R : Frame, (doneOkWord R).extractLsb' 24 1 = 1#1 ∧ (doneOkWord R).extractLsb' 0 24 = R.word24) ∧
  (∀ f : FaultT, (doneFaultWord f).extractLsb' Config.faultW 1 = 0#1 ∧
    (doneFaultWord f).extractLsb' 0 Config.faultW = f) ∧
  (∀ R : Frame, encodeCompletion (.ok R) =
    .done ((doneOkWord R).extractLsb' 24 1) (.rdata ((doneOkWord R).extractLsb' 0 24))) ∧
  (∀ f : FaultT, encodeCompletion (.fault f) =
    .done ((doneFaultWord f).extractLsb' Config.faultW 1) (.fault ((doneFaultWord f).extractLsb' 0 Config.faultW))) ∧
  (∀ r : Response, (respWord r).extractLsb' (10 + Config.faultW) 1 = r.isFault ∧
    (respWord r).extractLsb' Config.faultW 10 = r.sample ∧ (respWord r).extractLsb' 0 Config.faultW = r.fault) ∧
  (∀ s : Sample, (Response.ok s).isFault = 0#1 ∧ (Response.ok s).sample = s ∧ (Response.ok s).fault = 0) ∧
  (∀ f : FaultT, (Response.err f).isFault = 1#1 ∧ (Response.err f).sample = 0x000#10 ∧ (Response.err f).fault = f) ∧
  (∀ c : Channel, encodeRequest c = .reqCh [c.code8] ∧ c.code8.toNat < c.variant.nch ∧
    c.variant.nch = 2 ^ c.variant.chBits)

/-! ### The steps -/

/-- A step of a block of either variant runs the row that the presented word of highest priority decodes to, on the state with that cycle
consumed; with nothing presented only the outputs end (the idle step is the model's choice, log entry 6).  That `step` is the CH8 block's is
log entry 1.  Which word `fetch` takes is the spec's order of events; the place of CMD24 and REPLY words in it is log entries 7, 9 and 22, and
the choice among several words on one port is log entry 20. -/
def Obligations.StepRunsTheDecodedRow : Prop :=
  ∀ s : State,
    step s = stepOf .ch8 s ∧
    (∀ v : Variant, s.fetch = none → stepOf v s = .next s.advance) ∧
    (∀ (v : Variant) w i, s.fetch = some w → decode v s.phase w = .ok i → stepOf v s = exec i s.advance) ∧
    s.advance.phase = s.phase ∧ s.advance.cmdReg = s.cmdReg ∧ s.advance.outputs = [] ∧
    s.advance.req = s.presentedReq ∧ s.advance.inputs = s.inputs.tail

/-- Rule R82: in IDLE a request, ISSUE.CH8 or ISSUE.CH4, latches its frame, makes the block BUSY, starts
exactly that transaction and gives no response; and after every number of steps in which no completion and no reset has been presented
`req_ready` is low.  In BUSY the same request is not an ISSUE but HOLD, and starts nothing.  (What HOLD answers is
FrameRowsAreHeldWhileBusy, with the model's choices of log entries 4, 5 and 10.) -/
def Obligations.IssueStartsItsTransaction : Prop :=
  ∀ (s : State) (c : Channel) (i : Instr), i = requestRow .idle c →
    (s.phase = .idle →
      ∃ t, exec i s = .next t ∧
        t.phase = .busy ∧ t.cmdReg = (encodeFrame c).word24 ∧
        t.outputs = [.busReq [.write (encodeFrame c), .read 3]] ∧
        t.busStart = 1#1 ∧ t.busWdata = (encodeFrame c).word24 ∧ t.rspValid = 0#1 ∧
        ∀ v n u, (∀ cyc ∈ t.inputs.take n, quiet cyc = true) → runN v n t = .next u → u.reqReady = 0#1) ∧
    (s.phase = .busy →
      stepKind s.phase (inputOf i) = .hold ∧
      ∀ t, exec i s = .next t → t.phase = .busy ∧ t.cmdReg = s.cmdReg ∧ t.outputs = [] ∧ t.busStart = 0#1)

/-- Rule R85: COMPLETE_OK gives the decoded sample, makes the block IDLE and leaves CMD_REG; the ignored reply bits do not
matter. -/
def Obligations.CompleteOkReturnsTheSample : Prop :=
  ∀ (s : State) (R : Frame), s.phase = .busy →
    ∃ t, exec (.completeOk R) s = .next t ∧
      t.phase = .idle ∧ t.cmdReg = s.cmdReg ∧
      t.outputs = [.rsp (.ok (decodeFrame R))] ∧
      t.rspValid = 1#1 ∧ t.rspIsFault = 0#1 ∧ t.rspSample = decodeFrame R ∧
      exec (.completeOk ⟨0x00#8, R.b1 &&& 0x03#8, R.b2⟩) s = .next t ∧
      (R = ⟨0xFF#8, 0xFF#8, 0xFF#8⟩ → t.rspSample = 1023#10) ∧
      (R = ⟨0x00#8, 0x00#8, 0x00#8⟩ → t.rspSample = 0#10)

/-- 42_read_channel.md section COMPLETE_FAULT: COMPLETE_FAULT propagates the fault unchanged with no sample, makes the block IDLE and leaves
CMD_REG; no transaction follows but for an accepted request, and nothing in the state tells the fault from a success.  That a CMD24 word taken
in IDLE counts as such a request is the model's choice, log entry 7. -/
def Obligations.CompleteFaultPropagatesTheFault : Prop :=
  ∀ (s : State) (f : FaultT), s.phase = .busy →
    ∃ t, exec (.completeFault f) s = .next t ∧
      t.phase = .idle ∧ t.cmdReg = s.cmdReg ∧
      t.outputs = [.rsp (.err f)] ∧
      t.rspValid = 1#1 ∧ t.rspIsFault = 1#1 ∧ t.rspFault = f ∧ t.rspSample = 0x000#10 ∧ t.busStart = 0#1 ∧
      (∀ v n u x, runN v n t = .next u → stepOf v u = .next x → x.busStart = 1#1 →
        u.phase = .idle ∧ ∃ i c, u.fetchRow v = some i ∧ inputOf i = .req c) ∧
      (∀ R u, exec (.completeOk R) s = .next u → { t with outputs := [] } = { u with outputs := [] })

/-- Section "Hold, spurious completion" of 42_read_channel.md (decision D4): HOLD completes in BUSY, changes nothing of the block
and produces nothing.  That it answers a next state, where the spec's Lean reading answers none, is the model's choice, log entry 5, and
that the request stays presented in `req` is its form of the rule, log entry 4. -/
def Obligations.HoldKeepsTheBlockAndTheRequest : Prop :=
  ∀ (s : State) (c : Channel), s.phase = .busy →
    exec (.hold c) s = .next { s with outputs := [], req := some [c.code8] } ∧
    State.reqReady { s with outputs := [], req := some [c.code8] } = 0#1

/-- Section "Hold, spurious completion" (decision D10): IGNORE_DONE completes in IDLE for a reply and for a fault, changes no
state and produces no output. -/
def Obligations.IgnoreDoneChangesNothing : Prop :=
  ∀ (s : State) (d : Completion), s.phase = .idle → exec (.ignoreDone d) s = .next { s with outputs := [] }

/-- 70_reset_and_hazards.md section 1 (decision D9): RESET completes in every state, and changes PHASE, CMD_REG and the outputs
only (what the requester presents stays, log entry 4). -/
def Obligations.ResetCompletesInEveryState : Prop :=
  ∀ s : State, exec .reset s = .next { s with phase := .idle, cmdReg := 0x000000#24, outputs := [] }

/-- The CH8 frame rows READ_SE8 and READ_SE8.CH0 to READ_SE8.CH7 complete in IDLE: the frame of the row goes out in one
transaction.  That a frame row runs as the ISSUE that emits it is the model's choice, log entry 7. -/
def Obligations.Ch8FrameRowsIssueTheirFrame : Prop :=
  ∀ s : State, s.phase = .idle →
    (∀ c : BitVec 3, ∃ t, exec (.readSe8 c) s = .next t ∧ exec (.issueCh8 c) s = .next t ∧ t.phase = .busy ∧
      t.outputs = [.busReq [.write (cmdFrame8 c), .read 3]] ∧ t.busWdata = (cmdFrame8 c).word24 ∧
      t.inputs = s.inputs) ∧
    ∀ row ∈ [(Instr.readSe8Ch0, (⟨0x01#8, 0x80#8, 0x00#8⟩ : Frame), 0x018000#24),
        (.readSe8Ch1, ⟨0x01#8, 0x90#8, 0x00#8⟩, 0x019000#24), (.readSe8Ch2, ⟨0x01#8, 0xA0#8, 0x00#8⟩, 0x01A000#24),
        (.readSe8Ch3, ⟨0x01#8, 0xB0#8, 0x00#8⟩, 0x01B000#24), (.readSe8Ch4, ⟨0x01#8, 0xC0#8, 0x00#8⟩, 0x01C000#24),
        (.readSe8Ch5, ⟨0x01#8, 0xD0#8, 0x00#8⟩, 0x01D000#24), (.readSe8Ch6, ⟨0x01#8, 0xE0#8, 0x00#8⟩, 0x01E000#24),
        (.readSe8Ch7, ⟨0x01#8, 0xF0#8, 0x00#8⟩, 0x01F000#24)],
      ∃ t, exec row.1 s = .next t ∧ t.phase = .busy ∧ t.cmdReg = row.2.2 ∧
        t.outputs = [.busReq [.write row.2.1, .read 3]] ∧ t.inputs = s.inputs

/-- The CH4 frame rows READ_SE4 and READ_SE4.CH0 to READ_SE4.CH3 complete in IDLE (log entry 7). -/
def Obligations.Ch4FrameRowsIssueTheirFrame : Prop :=
  ∀ s : State, s.phase = .idle →
    (∀ c : BitVec 2, ∃ t, exec (.readSe4 c) s = .next t ∧ exec (.issueCh4 c) s = .next t ∧ t.phase = .busy ∧
      t.outputs = [.busReq [.write (cmdFrame4 c), .read 3]] ∧ t.busWdata = (cmdFrame4 c).word24 ∧
      t.inputs = s.inputs) ∧
    ∀ row ∈ [(Instr.readSe4Ch0, (⟨0x01#8, 0x80#8, 0x00#8⟩ : Frame), 0x018000#24),
        (.readSe4Ch1, ⟨0x01#8, 0x90#8, 0x00#8⟩, 0x019000#24), (.readSe4Ch2, ⟨0x01#8, 0xA0#8, 0x00#8⟩, 0x01A000#24),
        (.readSe4Ch3, ⟨0x01#8, 0xB0#8, 0x00#8⟩, 0x01B000#24)],
      ∃ t, exec row.1 s = .next t ∧ t.phase = .busy ∧ t.cmdReg = row.2.2 ∧
        t.outputs = [.busReq [.write row.2.1, .read 3]] ∧ t.inputs = s.inputs

/-- In BUSY no second transaction starts: every row that stands for a request is held.  That a held row answers a next
state is the model's choice, log entry 5, that an ISSUE row runs as HOLD there is log entry 10, that a frame row stands for its request is
log entry 7, and that the request stays in `req` is log entry 4 (for a frame row log entry 22). -/
def Obligations.FrameRowsAreHeldWhileBusy : Prop :=
  ∀ (s : State) (i : Instr) (c : Channel), s.phase = .busy → inputOf i = .req c →
    exec i s = .next { s with outputs := [], req := some [c.code8] }

/-- REPLY completes in BUSY with the sample of its data bits, and is ignored in IDLE.  That the reply frame's row runs as the
completion that carries it is the model's choice, log entry 9. -/
def Obligations.ReplyRowReturnsItsDataBits : Prop :=
  ∀ (s : State) (n0 : BitVec 8) (n1 : BitVec 6) (h : BitVec 2) (l : BitVec 8),
    (s.phase = .busy →
      exec (.reply n0 n1 h l) s = .next { s with phase := .idle, outputs := [.rsp (.ok (h ++ l : BitVec 10))] }) ∧
    (s.phase = .idle → exec (.reply n0 n1 h l) s = .next { s with outputs := [] })

/-- Every row runs in every state; and a step of a block runs a row of the block's variant, with its guard (rule R80), so never a row of the
other variant (40_channel_selector.md).  That a meaning does not ask which block it runs on is the model's, log entry 11.  Rules R14 and R80
enable no step outside its guard: that a row run in the other phase takes the step its event is there is log entry 10, that a HOLD answers is log
entry 5, that a CMD24 row runs as the request whose ISSUE emits its frame is log entry 7, and that REPLY runs as the completion that carries it is
log entry 9. -/
def Obligations.ExactlyTheRowsOfTheVariantRun : Prop :=
  (∀ (i : Instr) (s : State), ∃ t, exec i s = .next t ∧
    (s.phase = .idle → ∀ c, inputOf i = .req c → t.phase = .busy ∧ t.cmdReg = (encodeFrame c).word24) ∧
    (s.phase = .busy → ∀ d, inputOf i = .done d → t.phase = .idle ∧ t.outputs = [.rsp (answerOf d)])) ∧
  ∀ (v : Variant) (s t : State), s.fetch ≠ none → stepOf v s = .next t →
    ∃ i, s.fetchRow v = some i ∧ exec i s.advance = .next t ∧ wellFormed v i = true ∧ i.enabledIn s.phase = true

/-- 10_state.md section 2 (decision D2), the frame of every row: PHASE is written as the table of "written by" says, CMD_REG only by
ISSUE and RESET; what the outside will present is never changed.  That a completion and RESET leave the request port as it
is is log entry 4 (DEDUCED), that a row outside its guard is read by its event is log entry 10, and that HOLD answers is log entry 5.  The event of a
CMD24 row is the request whose ISSUE emits its frame by log entry 7, what such a row does to the request port is log entry 22, and the event of
REPLY is the completion that carries it by log entry 9. -/
def Obligations.EveryRowsFrame : Prop :=
  ∀ (i : Instr) (s t : State), exec i s = .next t →
    t.inputs = s.inputs ∧
    (match stepKind s.phase (inputOf i) with
      | .issue => t.phase = .busy ∧ ∃ c, inputOf i = .req c ∧ t.cmdReg = (encodeFrame c).word24
      | .hold => t.phase = s.phase ∧ t.cmdReg = s.cmdReg
      | .completeOk => t.phase = .idle ∧ t.cmdReg = s.cmdReg ∧ t.req = s.req
      | .completeFault => t.phase = .idle ∧ t.cmdReg = s.cmdReg ∧ t.req = s.req
      | .ignoreDone => t.phase = s.phase ∧ t.cmdReg = s.cmdReg ∧ t.req = s.req
      | .reset => t.phase = .idle ∧ t.cmdReg = 0x000000#24 ∧ t.req = s.req)

/-- Section "Lean reading of the step" of 42_read_channel.md (derived there): the machine refines that function.  Where the function
is not enabled the machine holds: the block stays and nothing is output (log entry 5).  A step with nothing presented answers too (log entry 6),
and the function's input for a CMD24 row and for REPLY is that of log entries 7 and 9. -/
def Obligations.MachineRefinesTheLeanReading : Prop :=
  ∀ (v : Variant) (s t : State), stepOf v s = .next t →
    match s.fetchRow v with
    | none => t.block = s.block ∧ t.outputs = []
    | some i =>
      match blockStep s.block (inputOf i) with
      | some (b, out) => t.block = b ∧ t.outputs = out
      | none => stepKind s.phase (inputOf i) = .hold ∧ t.block = s.block ∧ t.outputs = []

/-- 60_exceptions.md section 2 (decision D14): reset before completion before request.  A DONE word decides whatever else is presented beside
it, so `bus_ok` alone selects.  The model's: one word on each port is what a cycle presents (log entry 20); a request beside a reset or a
completion stays presented, and one kept from before is taken like one presented now (log entry 4, DEDUCED, where the rule says
"discarded"); a held request answers (log entry 5); a CMD24 word beside any of them is not taken (log entry 22). -/
def Obligations.SimultaneousEventsByPriority : Prop :=
  ∀ (v : Variant) (s : State),
    (s.cycle.filter (hasPriority 1) = [encode .reset] →
      ∃ t, stepOf v s = .next t ∧ t.phase = .idle ∧ t.cmdReg = 0x000000#24 ∧ t.outputs = [] ∧ t.req = s.presentedReq) ∧
    (∀ d, s.cycle.filter (hasPriority 1) = [] → s.cycle.filter isDone = [encodeCompletion d] →
      ∃ t, stepOf v s = .next t ∧ t.phase = .idle ∧ t.cmdReg = s.cmdReg ∧ t.req = s.presentedReq ∧
        t.outputs = (match s.phase with | .busy => [.rsp (answerOf d)] | .idle => [])) ∧
    (∀ c, c.variant = v → s.cycle.filter (hasPriority 1) = [] → s.cycle.filter (hasPriority 2) = [] →
      s.presentedReq = some [c.code8] →
      ∃ t, stepOf v s = .next t ∧ t.phase = .busy ∧
        (match s.phase with
          | .idle => t.cmdReg = (encodeFrame c).word24 ∧ t.outputs = [.busReq (txnOf (encodeFrame c))] ∧ t.req = none
          | .busy => t.cmdReg = s.cmdReg ∧ t.outputs = [] ∧ t.req = some [c.code8]))

/-- Rules R25 and R117 (decision D4): no word takes the place of what stands on the request port.  A step that takes a word of the third
priority where a request is presented or held takes that request.  That a CMD24 word is taken at all, only where the port is empty, is the
model's choice, log entries 7 and 22. -/
def Obligations.NoWordDisplacesARequest : Prop :=
  ∀ (s : State) (w : PortWord) (bs : List Byte), s.presentedReq = some bs → s.fetch = some w → portPriority w = 3 →
    w = .reqCh bs

/-- Sections "Hold" of 42_read_channel.md and 2 of 60_exceptions.md (decisions D4, D14): a request presented in the cycle of the
completion that ends BUSY is held for that cycle and accepted in the next one, where nothing new is presented.  That the request stays in
`req` and is taken from there is the model's reading of "keeps presenting", log entry 4 (DEDUCED). -/
def Obligations.CompletionLiftsTheHold : Prop :=
  ∀ (v : Variant) (s : State) (d : Completion) (c : Channel) (rest : List Cycle),
    s.phase = .busy → c.variant = v →
    (s.inputs = [encodeCompletion d, encodeRequest c] :: [] :: rest ∨
      s.inputs = [encodeCompletion d] :: [] :: rest ∧ s.req = some [c.code8]) →
    ∃ t u, stepOf v s = .next t ∧ t.outputs = [.rsp (answerOf d)] ∧ t.req = some [c.code8] ∧ t.reqReady = 1#1 ∧
      stepOf v t = .next u ∧ u.outputs = [.busReq (txnOf (encodeFrame c))] ∧ u.cmdReg = (encodeFrame c).word24 ∧ u.req = none

/-- 70_reset_and_hazards.md section 3 (decision D4): `req_ch` is sampled at ISSUE.  A requester that changes the code of a held request
gets the read of the code presented when the request is accepted, and no fault.  That the held request is in `req` is log entry 4. -/
def Obligations.ChangedHeldRequestServesTheNewCode : Prop :=
  ∀ (v : Variant) (s : State) (old new : Channel) (rest : List Cycle),
    s.phase = .idle → new.variant = v → s.req = some [old.code8] →
    s.inputs = [encodeRequest new] :: rest →
    (requesterConforms s = true → old.code8 = new.code8) ∧
    ∃ t, stepOf v s = .next t ∧ t.outputs = [.busReq (txnOf (encodeFrame new))] ∧ t.req = none ∧ t.rspValid = 0#1

/-! ### Whole-machine rules -/

/-- 20_memory.md section 2: a step starts a transaction exactly when it accepts a request in IDLE, it is the one transaction of that request,
no other step touches the bus, and the accepted request is no longer presented (`req`), so that no second transaction can be its.  That a
CMD24 word taken in IDLE is such a request, and leaves the port empty, is the model's choice, log entries 7 and 22. -/
def Obligations.OneTransactionPerAcceptedRequest : Prop :=
  ∀ (v : Variant) (s t : State), stepOf v s = .next t →
    (txnCount t.outputs = 0 ∧ ¬ (s.phase = .idle ∧ ∃ i c, s.fetchRow v = some i ∧ inputOf i = .req c)) ∨
    (∃ i c, s.phase = .idle ∧ s.fetchRow v = some i ∧ inputOf i = .req c ∧
      t.outputs = [.busReq (txnOf (encodeFrame c))] ∧ t.phase = .busy ∧ t.req = none)

/-- 60_exceptions.md section 1: BusFault is the one fault kind; it is delivered exactly by a fault completion in BUSY, bit for bit, and of a
valid response `rsp_is_fault` tells it from a success.  That a REPLY word is such a success is the model's choice, log entry 9. -/
def Obligations.BusFaultOnlyFromCompleteFault : Prop :=
  ∀ (v : Variant) (s t : State), stepOf v s = .next t →
    (∀ f, .rsp (.err f) ∈ t.outputs ↔
      s.phase = .busy ∧ ∃ i, s.fetchRow v = some i ∧ inputOf i = .done (.fault f)) ∧
    (t.rspValid = 1#1 ∧ t.rspIsFault = 1#1 ↔ s.phase = .busy ∧ ∃ i f, s.fetchRow v = some i ∧ inputOf i = .done (.fault f)) ∧
    (∀ f, s.phase = .busy → ∀ i, s.fetchRow v = some i → inputOf i = .done (.fault f) →
      t.rspValid = 1#1 ∧ t.rspIsFault = 1#1 ∧ t.rspFault = f) ∧
    (∀ R, s.phase = .busy → ∀ i, s.fetchRow v = some i → inputOf i = .done (.ok R) →
      t.rspValid = 1#1 ∧ t.rspIsFault = 0#1 ∧ t.rspSample = decodeFrame R)

/-- 42_read_channel.md section ISSUE: while BUSY the machine takes a row of the four enabled steps, no second transaction starts, and PHASE stays BUSY until the
collaborator answers or `rst` is asserted.  That it takes a CMD24 row too, as the HOLD of its channel, and a REPLY row, as the COMPLETE_OK of its
frame, is the model's choice, log entries 7 and 9. -/
def Obligations.BusyBlockIsPassive : Prop :=
  ∀ (v : Variant) (s : State), s.phase = .busy →
    (∀ i, s.fetchRow v = some i → i.enabledIn .busy = true ∧
      ((∃ R, i = .completeOk R) ∨ (∃ f, i = .completeFault f) ∨ (∃ c, c.variant = v ∧ i = .hold c) ∨ i = .reset ∨
        (∃ n0 n1 h l, i = .reply n0 n1 h l ∧
          exec i s.advance = exec (.completeOk (replyFrame n0 n1 h l)) s.advance) ∨
        (∃ c, c.variant = v ∧ i.guardPhase = none ∧ inputOf i = .req c ∧ exec i s.advance = exec (.hold c) s.advance))) ∧
    (∀ t, stepOf v s = .next t → t.busStart = 0#1 ∧
      (t.phase = .idle → presentsReset s.cycle = true ∨ presentsCompletion s.cycle = true)) ∧
    (∀ n u, (∀ cyc ∈ s.inputs.take n, quiet cyc = true) → runN v n s = .next u → u.phase = .busy)

/-- 70_reset_and_hazards.md section 3 (decision D12): with no completion and no reset, PHASE stays BUSY for ever, every request is held and no
response is produced; only a reset leaves the state where no completion comes.  That every one of the waiting steps answers is the model's
choice, log entry 5 for a HOLD and log entry 6 for a step with nothing presented.
CMD24 and REPLY words among the inputs are read as log entries 7, 9 and 22 say. -/
def Obligations.HangWithoutCompletion : Prop :=
  (∀ (v : Variant) (s : State) (n : Nat), s.phase = .busy → LegalInputs v s → (∀ cyc ∈ s.inputs.take n, quiet cyc = true) →
    ∃ u, runN v n s = .next u ∧ u.phase = .busy ∧ u.cmdReg = s.cmdReg ∧ u.reqReady = 0#1 ∧ trace v n s = []) ∧
  (∀ (v : Variant) (s t : State), s.phase = .busy → presentsCompletion s.cycle = false → stepOf v s = .next t → t.phase = .idle →
    presentsReset s.cycle = true ∧ t.block = ⟨.idle, 0x000000#24⟩)

/-- Rule R112: after reset the block is ready at once, the first step may be ISSUE for every channel, and the reset itself sends
nothing. -/
def Obligations.ReadyAtOnceAfterReset : Prop :=
  ∀ s t : State, exec .reset s = .next t →
    t.reqReady = 1#1 ∧ t.outputs = [] ∧
    ∀ (v : Variant) (c : Channel) (rest : List Cycle), c.variant = v →
      ∃ u, stepOf v { t with inputs := [encodeRequest c] :: rest } = .next u ∧
        u.outputs = [.busReq (txnOf (encodeFrame c))] ∧ u.phase = .busy

/-- 70_reset_and_hazards.md section 1 (decision D10): a request abandoned by a reset is never answered.  From the reset on, with no
new request presented, nothing is ever output, whatever stale completions arrive.
CMD24 and REPLY words among the inputs are read as log entries 7, 9 and 22 say. -/
def Obligations.AbandonedRequestIsNeverAnswered : Prop :=
  ∀ (v : Variant) (s t : State) (n : Nat), exec .reset s = .next t → t.req = none →
    (∀ cyc ∈ t.inputs.take n, presentsRequest cyc = false) → trace v n t = []

/-- 42_read_channel.md, bus collaborator's answer and section "Hold, spurious completion" (decision D10): where the collaborator keeps its duty, a
completion reaches an IDLE block only after a reset abandoned a transaction.
CMD24 and REPLY words among the inputs are read as log entries 7, 9 and 22 say. -/
def Obligations.SpuriousCompletionsAreStale : Prop :=
  ∀ (v : Variant) (n : Nat) (s u : State), CollaboratorConforms v (outstanding s) s → runN v n s = .next u →
    presentsCompletion u.cycle = true → u.phase = .idle → 0 < abandonCount v n s

/-- 42_read_channel.md (derived from COMPLETE_OK and DECODE there): the response depends on the reply alone, not on the channel, the
frame or anything else in the state. -/
def Obligations.ResponseDependsOnReplyAlone : Prop :=
  ∀ (s t s' t' : State) (R R' : Frame), s.phase = .busy → t.phase = .busy →
    R.b1.extractLsb' 0 2 = R'.b1.extractLsb' 0 2 → R.b2 = R'.b2 →
    exec (.completeOk R) s = .next s' → exec (.completeOk R') t = .next t' → s'.outputs = t'.outputs

/-- 42_read_channel.md, composite meaning of one read (derived there): ISSUE(c), any number of cycles in which only other legal requests
are presented, one completion: exactly one transaction with frame ENCODE(c) and exactly one response, and PHASE is IDLE.
How long the wait is and what is presented in it do not matter (the two requester forms see the same).  That a HOLD and a step with
nothing presented answer is the model's choice, log entries 5 and 6.
CMD24 and REPLY words among the inputs are read as log entries 7, 9 and 22 say. -/
def Obligations.OneReadFromIssueToResponse : Prop :=
  ∀ (v : Variant) (s : State) (c : Channel) (holds rest : List Cycle) (d : Completion),
    s.phase = .idle → c.variant = v →
    (∀ cyc ∈ holds, quiet cyc = true ∧ legalCycle v cyc = true) →
    s.inputs = [encodeRequest c] :: (holds ++ [encodeCompletion d] :: rest) →
    ∃ t, runN v (holds.length + 2) s = .next t ∧
      trace v (holds.length + 2) s = [.busReq (txnOf (encodeFrame c)), .rsp (answerOf d)] ∧
      t.phase = .idle ∧ t.cmdReg = (encodeFrame c).word24 ∧ t.inputs = rest

/-- 20_memory.md section 4 and 60_exceptions.md section 2 (decision D4, derived): without a reset, transactions and responses
strictly alternate in every run, so at most one is outstanding and the n-th response answers the n-th accepted request.
CMD24 and REPLY words among the inputs are read as log entries 7, 9 and 22 say. -/
def Obligations.TransactionsAndResponsesAlternate : Prop :=
  ∀ (v : Variant) (n : Nat) (s t : State), runN v n s = .next t → (∀ cyc ∈ s.inputs.take n, presentsReset cyc = false) →
    alternates s.phase (trace v n s) = true ∧
    outstanding s + txnCount (trace v n s) = rspCount (trace v n s) + outstanding t

/-- 60_exceptions.md section 2 and 70_reset_and_hazards.md section 1 (derived): in every run, resets too, each transaction started is
answered once, outstanding at the end, or abandoned by a reset.
CMD24 and REPLY words among the inputs are read as log entries 7, 9 and 22 say. -/
def Obligations.EveryTransactionIsAccountedFor : Prop :=
  ∀ (v : Variant) (n : Nat) (s t : State), runN v n s = .next t →
    outstanding s + txnCount (trace v n s) = rspCount (trace v n s) + abandonCount v n s + outstanding t

/-- 10_state.md section 2 (derived there): no state crosses reads.  Two states that differ only in CMD_REG while IDLE, which no rule
reads, give the same outputs for ever and stay so related; either both run or neither does.
CMD24 and REPLY words among the inputs are read as log entries 7, 9 and 22 say. -/
def Obligations.NoStateCrossesReads : Prop :=
  ∀ (v : Variant) (n : Nat) (s t : State), sameButIdleCommand s t →
    trace v n s = trace v n t ∧
    (∀ s', runN v n s = .next s' → ∃ t', runN v n t = .next t' ∧ sameButIdleCommand s' t')

/-- Rule R8's assumption as a premise (decision D12, log entry 21): where the collaborator completes every transaction the block issues, a
read that is outstanding at any point of any run, with no reset presented from there on, is answered within the cycles presented from there
on.  That the steps on the way answer is the model's choice, log entry 5 for a HOLD (of which 42_read_channel.md warns for a termination claim: here a HOLD is no
progress, each uses up a presented cycle) and log entry 6 for a step with nothing presented.
CMD24 and REPLY words among the inputs are read as log entries 7, 9 and 22 say. -/
def Obligations.ReadTerminatesUnderBusLiveness : Prop :=
  ∀ (v : Variant) (s u : State) (m : Nat), LegalInputs v s → BusLiveness v (outstanding s) s →
    runN v m s = .next u → (∀ cyc ∈ u.inputs, presentsReset cyc = false) → u.phase = .busy →
    ∃ n t r, n < u.inputs.length ∧ runN v (n + 1) u = .next t ∧ t.phase = .idle ∧ t.outputs = [.rsp r] ∧
      trace v (n + 1) u = [.rsp r]

/-- Legal inputs never stop the machine: no request and no completion is illegal (rules R57 and R76), and legality is kept by
every step.  What counts as a word is the model's byte layout, log entry 13; that a HOLD answers is log entry 5, and that a step with
nothing presented does is log entry 6.
CMD24 and REPLY words among the inputs are read as log entries 7, 9 and 22 say. -/
def Obligations.LegalInputsNeverStop : Prop :=
  ∀ (v : Variant) (s : State), LegalInputs v s → ∀ n, ∃ t, runN v n s = .next t ∧ LegalInputs v t

/-- What a step stops on: a command word the block never emits ends in the fault of 30_encoding.md section 5 (decision D17), and bytes
that are no word of their carrier are refused (log entry 13).  That the fault is raised in IDLE as in BUSY, and on the `Write(F)`
carrier as on `bus_wdata`, is log entry 12. -/
def Obligations.IllegalWordsStopByName : Prop :=
  ∀ (v : Variant) (s : State) (w : PortWord) (e : Reject), s.fetch = some w → decode v s.phase w = .error e →
    (∀ g, e = .neverEmittedFrame g → stepOf v s = .fault (.implementationUnderTest g)) ∧
    ((∀ g, e ≠ .neverEmittedFrame g) → stepOf v s = .refused (.noPortWord e))

/-! ### Reset and the invariant -/

/-- 10_state.md section 4 (decision D9): the reset value of every state element and output.  It is one state for both variants, since VARIANT
is no state.  The empty ports are the model's choice, log entry 18, and no clause here. -/
def Obligations.ResetValues : Prop :=
  State.reset.phase = .idle ∧ phaseBit State.reset.phase = 0#1 ∧ State.reset.cmdReg = 0x000000#24 ∧
  State.reset.reqReady = 1#1 ∧ State.reset.rspValid = 0#1 ∧ State.reset.rspIsFault = 0#1 ∧
  State.reset.rspSample = 0#10 ∧ State.reset.rspFault = 0 ∧ State.reset.busStart = 0#1 ∧
  State.reset.busWdata = 0x000000#24

/-- 00_scope.md sections 1 and 3, and 40_channel_selector.md: VARIANT is a parameter of the machine, and the block is the same for both of
its values but for the width of a channel code.  Each value gives a machine with the one reset state and its own step.  A code below 4
presented to either block makes the same step; a code of 4 to 7 is a channel of the CH8 block only, and no word of the CH4 block's port; and
what is not a request or a command frame makes the same step.  That the host's `core` is the CH8 block is the model's choice, log entry 1,
that the CH4 block refuses the word by that name is log entry 13, and that the CH8 block's HOLD answers is log entry 5. -/
def Obligations.VariantIsAParameter : Prop :=
  (∀ v : Variant, (coreOf v).reset = State.reset ∧ (coreOf v).step = stepOf v) ∧
  coreOf .ch8 = core ∧
  (∀ (s : State) (b : Byte), s.fetch = some (.reqCh [b]) →
    (b.toNat < 4 → stepOf .ch4 s = stepOf .ch8 s) ∧
    (4 ≤ b.toNat → b.toNat < 8 →
      stepOf .ch4 s = .refused (.noPortWord .codeTooWide) ∧ ∃ t, stepOf .ch8 s = .next t)) ∧
  ∀ (s : State) (w : PortWord), s.fetch = some w → portPriority w ≠ 3 → stepOf .ch4 s = stepOf .ch8 s

/-- 10_state.md sections 2 and 4 (derived there): the reset state meets the invariant of a block of either variant, and its inputs are legal.  That
nothing is kept or presented at reset, from which the second follows, is the model's choice, log entry 18. -/
def Obligations.ResetMeetsTheInvariant : Prop := ∀ v : Variant, BlockInv v State.reset ∧ LegalInputs v State.reset

/-- 10_state.md section 2 (derived there), for every state that meets it and every step: while BUSY, CMD_REG is the frame of a channel
of the block's variant, and the outputs fit the phase.
CMD24 and REPLY words among the inputs are read as log entries 7, 9 and 22 say. -/
def Obligations.EveryStepKeepsTheInvariant : Prop :=
  ∀ (v : Variant) (s t : State), BlockInv v s → stepOf v s = .next t → BlockInv v t

/-- 30_encoding.md section 5 (decision D17, derived): where the invariant holds the monitor stays silent through every run, and
every transaction on the bus carries a single-ended frame that passes match and mask.
CMD24 and REPLY words among the inputs are read as log entries 7, 9 and 22 say. -/
def Obligations.MonitorStaysSilent : Prop :=
  ∀ (v : Variant) (n : Nat) (s t : State), BlockInv v s → runN v n s = .next t →
    monitor v t = none ∧
    ∀ ops, .busReq ops ∈ trace v n s →
      ∃ F : Frame, ops = [.write F, .read 3] ∧ F.word24.extractLsb' 15 1 = 1#1 ∧
        F.word24 &&& cmdMask v = cmdMatch v

/-! ### The model's own fetch, the wire, several blocks -/

/-- `withFetchWord` places a table word so that the next step of the host's machine, a CH8 block, runs its row (the model's convention, log
entries 1 and 15). -/
def Obligations.FetchWordRunsItsRow : Prop :=
  ∀ (s : State) (nbits w : Nat) (i : Instr), decodeTableWord nbits w = some i →
    (s.withFetchWord nbits w).fetchRow .ch8 = some i ∧
    step (s.withFetchWord nbits w) = exec i (s.withFetchWord nbits w).advance ∧
    (∃ t, step (s.withFetchWord nbits w) = .next t) ∧
    i.enabledIn (s.withFetchWord nbits w).phase = true ∧
    (s.withFetchWord nbits w).inputs.tail = s.inputs

/-- 20_memory.md sections 2 and 3 (decisions D7, D8): under either TXN_SHAPE the wire carries the command frame out and the reply in, byte 0
first and bit 7 first, with chip select held throughout: in 24 clocks out and then 24 clocks in, or in 24 clocks that each carry a bit both
ways; the start bit is the eighth bit out, then the
single-ended flag, then the channel bits.  Nothing in the block reads this.  That the wire is a function of the shape, the frame and the
reply, with no level on a line where the spec gives none (MOSI while the reply is read, MISO while the command is written), so that the bits on
each line are the frame's alone, is the model's choice, log entry 16. -/
def Obligations.WireCarriesBothFrames : Prop :=
  (∀ (shape : TxnShape) (F R : Frame),
    (wire shape F R).filterMap WireEvent.mosi = frameBits F ∧
    frameOfBits ((wire shape F R).filterMap WireEvent.miso) = some R ∧
    chipSelectHeld (wire shape F R) = true ∧
    (match shape with
      | .writeThenRead => ((wire shape F R).filter WireEvent.isClock).length = 48 ∧
        (((wire shape F R).filter WireEvent.isClock).take 24).filterMap WireEvent.miso = [] ∧
        (((wire shape F R).filter WireEvent.isClock).drop 24).filterMap WireEvent.mosi = []
      | .simultaneous => ((wire shape F R).filter WireEvent.isClock).length = 24 ∧
        ∀ e ∈ (wire shape F R).filter WireEvent.isClock, e.mosi.isSome = true ∧ e.miso.isSome = true)) ∧
  (∀ F : Frame, frameBits F = (List.range 24).map (fun k => F.word24.getMsbD k)) ∧
  (∀ c : BitVec 3, frameBits (encodeFrame (.ch8 c)) =
    [false, false, false, false, false, false, false, true, true, c.getLsbD 2, c.getLsbD 1, c.getLsbD 0]
      ++ List.replicate 12 false)

/-- 60_exceptions.md section 3 (decision D19): blocks share no state.  A step of one takes that block to the next state that the step of its
own variant gives it and leaves every other as it is, and the steps of two blocks may be taken in either order.  That a system is a list of
which one block steps at a time is the model's choice, log entry 19. -/
def Obligations.BlocksAreIndependent : Prop :=
  (∀ (build : Build) (p : Platform) (k : Nat) (s t : State), p[k]? = some s → stepOf (build k) s = .next t →
    (p.stepAt build k)[k]? = some t) ∧
  ∀ (build : Build) (p : Platform) (j k : Nat), j ≠ k →
    (p.stepAt build k)[j]? = p[j]? ∧ (p.stepAt build j).stepAt build k = (p.stepAt build k).stepAt build j ∧
    (p.stepAt build k).length = p.length

/-- 60_exceptions.md section 3 and 70_reset_and_hazards.md section 3 (decision D19): on a shared bus, whatever the blocks do and in whatever order the
collaborator takes their transactions, no two overlap on the wire, each stands under its own block's chip select, and each transaction
begun was issued by its block and begins once: those begun and those still waiting are, in some order, those waiting before and those issued
since.  The form of the collaborator is the model's choice, log entry 19. -/
def Obligations.SharedBusSerialisesTransactions : Prop :=
  ∀ (build : Build) (as : List BusAction) (b : SharedBus),
    serialised (b.active.map (·.1)) (SharedBus.run build as b).2 = true ∧
    ((SharedBus.run build as b).2.filterMap BusMark.begun? ++ (SharedBus.run build as b).1.waiting).Perm
      (b.waiting ++ SharedBus.issued build as b)

/-- 60_exceptions.md section 3 (decision D19): when a block of a shared bus takes a step, the bus takes over the transactions of that step,
behind those waiting, and nothing begins or ends on the wire.  The block's number
beside them, where the spec gives instances no identifiers, and the list of what it issues are the model's form of a shared bus, log entry
19. -/
def Obligations.SharedBusTakesEachBlocksTransactions : Prop :=
  ∀ (build : Build) (b : SharedBus) (k : Nat) (s t : State), b.blocks[k]? = some s → stepOf (build k) s = .next t →
    (b.act build (.step k)).1.blocks[k]? = some t ∧
    (∀ F, t.outputs = [.busReq (txnOf F)] →
      b.blocks.issuedBy build k = [(k, F)] ∧ (b.act build (.step k)).1.waiting = b.waiting ++ [(k, F)]) ∧
    (txnCount t.outputs = 0 →
      b.blocks.issuedBy build k = [] ∧ (b.act build (.step k)).1.waiting = b.waiting) ∧
    (b.act build (.step k)).1.active = b.active ∧ (b.act build (.step k)).2 = []
end

