-- ==== Sys2Proof/Laws/Codec.lean ====
section
/-! SUPPORT. Laws/Codec: the bits of a frame's word, of the command frames and of a decoded sample, one lemma per definition. -/

namespace Sys2Proof

/-- Bit `i` of two concatenated values: stated with the width as a variable so that it applies whatever literal the width is. -/
theorem getLsbD_append_lit {n m k : Nat} (h : n + m = k) (x : BitVec n) (y : BitVec m) (i : Nat) :
    ((x ++ y).cast h).getLsbD i = if i < m then y.getLsbD i else x.getLsbD (i - m) := by
  subst h; simp [BitVec.getLsbD_append]

/-- The bits of `word24` (rule R12). -/
theorem Frame.word24_getLsbD (F : Frame) (i : Nat) :
    F.word24.getLsbD i =
      if i < 8 then F.b2.getLsbD i else if i < 16 then F.b1.getLsbD (i - 8) else F.b0.getLsbD (i - 16) := by
  have h := getLsbD_append_lit (k := 24) rfl (F.b0 ++ F.b1) F.b2 i
  have h' := getLsbD_append_lit (k := 16) rfl F.b0 F.b1 (i - 8)
  refine h.trans ?_
  split
  · rfl
  · refine h'.trans ?_
    rw [Nat.sub_sub]
    split <;> split <;> first | rfl | omega

/-- The bits of byte 1 of a reply given by its fields (rule R51). -/
theorem replyFrame_b1_getLsbD (n0 : BitVec 8) (n1 : BitVec 6) (h : BitVec 2) (l : BitVec 8) (i : Nat) :
    (replyFrame n0 n1 h l).b1.getLsbD i = if i < 2 then h.getLsbD i else n1.getLsbD (i - 2) :=
  getLsbD_append_lit (k := 8) rfl n1 h i

/-- A frame is determined by its word (rule R12). -/
theorem Frame.word24_inj {F G : Frame} (h : F.word24 = G.word24) : F = G := by
  obtain ⟨x, y, z⟩ := F
  obtain ⟨x', y', z'⟩ := G
  have hb : ∀ i, (Frame.word24 ⟨x, y, z⟩).getLsbD i = (Frame.word24 ⟨x', y', z'⟩).getLsbD i := fun i => by rw [h]
  simp only [Frame.word24_getLsbD] at hb
  have hz : z = z' := by
    apply BitVec.eq_of_getLsbD_eq; intro i hi; simpa [hi] using hb i
  have hy : y = y' := by
    apply BitVec.eq_of_getLsbD_eq; intro i hi
    simpa [show ¬ i + 8 < 8 by omega, show i + 8 < 16 by omega] using hb (i + 8)
  have hx : x = x' := by
    apply BitVec.eq_of_getLsbD_eq; intro i hi
    simpa [show ¬ i + 16 < 8 by omega, show ¬ i + 16 < 16 by omega] using hb (i + 16)
  rw [hx, hy, hz]

namespace Machine

/-- DECODE is bits 1:0 of byte 1 followed by byte 2 (rule R73's comment). -/
theorem decodeFrame_getLsbD (R : Frame) (i : Nat) :
    (decodeFrame R).getLsbD i =
      if i < 8 then R.b2.getLsbD i else if i < 10 then R.b1.getLsbD (i - 8) else false := by
  by_cases h : i < 10
  · interval_cases i <;> simp [decodeFrame]
  · rw [BitVec.getLsbD_of_ge _ _ (by omega)]; simp [h, show ¬ i < 8 by omega]

/-- Only the ten data bits matter (rule R73). -/
theorem decodeFrame_congr {R S : Frame} (h1 : R.b1.extractLsb' 0 2 = S.b1.extractLsb' 0 2) (h2 : R.b2 = S.b2) :
    decodeFrame R = decodeFrame S := by
  apply BitVec.eq_of_getLsbD_eq
  intro i hi
  rw [decodeFrame_getLsbD, decodeFrame_getLsbD, h2]
  by_cases h8 : i < 8
  · simp [h8]
  · have := congrArg (fun v : BitVec 2 => v.getLsbD (i - 8)) h1
    simpa [h8, hi, BitVec.getLsbD_extractLsb', show i - 8 < 2 by omega] using this

/-- DECODE as the concatenation of its data bits (rules R36, R73). -/
theorem decodeFrame_eq_append (R : Frame) : decodeFrame R = (R.b1.extractLsb' 0 2 ++ R.b2 : BitVec 10) := by
  apply BitVec.eq_of_getLsbD_eq
  intro i hi
  rw [decodeFrame_getLsbD]
  refine Eq.trans ?_ (getLsbD_append_lit (k := 10) rfl (R.b1.extractLsb' 0 2) R.b2 i).symm
  interval_cases i <;> simp

/-- DECODE as a number (rule R75). -/
theorem decodeFrame_toNat (R : Frame) : (decodeFrame R).toNat = (R.b1.toNat % 4) * 256 + R.b2.toNat := by
  have h1 := R.b1.isLt
  have h2 := R.b2.isLt
  have : (decodeFrame R).toNat = ((R.b1.toNat <<< 8) ||| R.b2.toNat) &&& 1023 := by
    simp only [decodeFrame, BitVec.extractLsb'_toNat, BitVec.toNat_and, BitVec.toNat_or, BitVec.toNat_shiftLeft,
      BitVec.truncate_eq_setWidth, BitVec.toNat_setWidth, BitVec.toNat_ofNat, Nat.shiftRight_zero]
    rw [Nat.mod_eq_of_lt (a := R.b1.toNat) (by omega), Nat.mod_eq_of_lt (a := R.b2.toNat) (by omega),
      Nat.mod_eq_of_lt (a := R.b1.toNat <<< 8) (by rw [Nat.shiftLeft_eq]; omega)]
    exact Nat.mod_eq_of_lt (Nat.lt_of_le_of_lt Nat.and_le_right (by decide))
  rw [this, ← Nat.shiftLeft_add_eq_or_of_lt h2, Nat.shiftLeft_eq]
  have h10 := Nat.and_two_pow_sub_one_eq_mod (R.b1.toNat * 2 ^ 8 + R.b2.toNat) 10
  rw [show 2 ^ 10 - 1 = 1023 from rfl] at h10
  rw [h10]; omega

end Machine

end Sys2Proof
end

