-- ==== Sys2Proof/Laws/Decode.lean ====
section
/-! SUPPORT. Laws/Decode: what the decoder answers, one lemma per carrier, and what a row's event is by the carrier of its word. -/

namespace Sys2Proof

@[simp] theorem beBytes_length (k n : Nat) : (beBytes k n).length = k := by
  induction k with
  | zero => rfl
  | succ k ih => simp [beBytes, ih]

/-- The bytes of a frame's word are the frame (rule R12), and the word of a word's bytes is the word. -/
@[simp] theorem Frame.ofWord24_word24 (F : Frame) : Frame.ofWord24 F.word24 = F := by
  apply Frame.word24_inj
  apply BitVec.eq_of_getLsbD_eq
  intro i hi
  rw [Frame.word24_getLsbD, Frame.word24_getLsbD]
  simp only [Frame.ofWord24, BitVec.getLsbD_extractLsb', Frame.word24_getLsbD]
  interval_cases i <;> simp

@[simp] theorem Frame.word24_ofWord24 (w : Word24) : (Frame.ofWord24 w).word24 = w := by
  apply BitVec.eq_of_getLsbD_eq
  intro i hi
  rw [Frame.word24_getLsbD]
  simp only [Frame.ofWord24, BitVec.getLsbD_extractLsb']
  interval_cases i <;> simp

/-- The DONE word of a completion reads back as the completion (rule R54). -/
theorem decode_encodeCompletion (v : Variant) (ph : Phase) (d : Completion) :
    decode v ph (encodeCompletion d) = .ok (completionRow ph d) := by
  cases d <;> simp [decode, encodeCompletion, decodeDone, decodeCompletion]

/-- A DONE word that reads as a completion is the completion's own word. -/
theorem decodeCompletion_ok {ok : BitVec 1} {p : Payload} {d : Completion} (h : decodeCompletion ok p = .ok d) :
    encodeCompletion d = .done ok p := by
  have two : ∀ b : BitVec 1, b ≠ 1#1 → b = 0#1 := by decide
  unfold decodeCompletion at h
  split at h
  · next hb => cases p <;> cases h; simp [encodeCompletion, hb]
  · next hb => cases p <;> cases h; simp [encodeCompletion, two ok hb]

/-- The byte of a channel code reads back as the channel (rules R53, R62). -/
theorem decodeChannel_code8 (c : Channel) : decodeChannel c.variant c.code8 = .ok c := by
  cases c with
  | ch8 c => revert c; decide
  | ch4 c => revert c; decide

theorem decode_encodeRequest (ph : Phase) (c : Channel) :
    decode c.variant ph (encodeRequest c) = .ok (requestRow ph c) := by
  simp [decode, encodeRequest, decodeRequest, decodeChannel_code8]

theorem decodeChannel_ok {v : Variant} {b : Byte} {c : Channel} (h : decodeChannel v b = .ok c) :
    c.variant = v ∧ c.code8 = b := by
  cases v <;> simp only [decodeChannel] at h <;> split at h <;> cases h <;> exact ⟨rfl, by revert b; decide⟩

namespace Machine

/-- What a row is by the carrier of its word. -/
def RowOn (v : Variant) (ph : Phase) (i : Instr) : PortWord → Prop
  | .rst _ => i = .reset
  | .done _ _ => ∃ d, i = completionRow ph d
  | .readOp _ => ∃ n0 n1 hi lo, i = .reply n0 n1 hi lo
  | .reqCh _ => ∃ c, c.variant = v ∧ i = requestRow ph c
  | .busWdata _ => ∃ c, inputOf i = .req c ∧ c.variant = v
  | .writeOp _ => ∃ c, inputOf i = .req c ∧ c.variant = v

/-- The event of a word's row depends on its carrier alone, and the row's variant is the block's. -/
theorem decode_ok {v : Variant} {ph : Phase} {w : PortWord} {i : Instr} (h : decode v ph w = .ok i) :
    wellFormed v i = true ∧ RowOn v ph i w := by
  cases w <;> simp only [decode] at h
  · unfold decodeRst at h
    split at h
    · split at h
      · injection h with h; subst h; exact ⟨rfl, rfl⟩
      · split at h <;> cases h
    · cases h
  · unfold decodeDone at h
    split at h
    · next d _ => injection h with h; subst h; exact ⟨by cases ph <;> cases d <;> rfl, d, rfl⟩
    · cases h
  · unfold decodeReply at h
    split at h
    · cases h
    · injection h with h; subst h; exact ⟨rfl, _, _, _, _, rfl⟩
  · unfold decodeRequest at h
    split at h
    · split at h
      · next c hc =>
        injection h with h; subst h
        have := (decodeChannel_ok hc).1
        subst this
        exact ⟨by cases ph <;> cases c <;> rfl, c, rfl, rfl⟩
      · cases h
    · cases h
  · unfold decodeCommand at h
    split at h
    · cases h
    · split at h
      · next hi =>
        injection h with h; subst h
        simp only [decodePattern] at hi
        split at hi
        · cases v <;> injection hi with hi <;> subst hi <;> exact ⟨rfl, _, rfl, rfl⟩
        · cases hi
      · cases h
  · unfold decodeCommand at h
    split at h
    · cases h
    · split at h
      · next F _ j hi =>
        injection h with h; subst h
        obtain ⟨row, hrow, rfl⟩ := Option.map_eq_some_iff.1 hi
        have hm := List.mem_of_find?_eq_some hrow
        cases v <;> simp only [frameMap, List.mem_cons, List.not_mem_nil, or_false] at hm <;>
          rcases hm with rfl | rfl | rfl | rfl | rfl | rfl | rfl | rfl <;> exact ⟨rfl, _, rfl, rfl⟩
      · cases h

/-- Whether a word is accepted, and as which event, does not depend on the phase. -/
theorem decode_phase {v : Variant} {ph : Phase} {w : PortWord} {i : Instr} (h : decode v ph w = .ok i) (ph' : Phase) :
    ∃ j, decode v ph' w = .ok j ∧ inputOf j = inputOf i := by
  cases w <;> simp only [decode] at h ⊢
  · exact ⟨i, h, rfl⟩
  · unfold decodeDone at h ⊢
    split at h
    · next d _ =>
      injection h with h; subst h
      exact ⟨_, rfl, by cases ph <;> cases ph' <;> cases d <;> rfl⟩
    · cases h
  · exact ⟨i, h, rfl⟩
  · unfold decodeRequest at h ⊢
    split at h
    · split at h
      · next hc =>
        injection h with h; subst h
        rename_i c
        exact ⟨requestRow ph' c, rfl, by cases ph <;> cases ph' <;> cases c <;> rfl⟩
      · cases h
    · cases h
  · exact ⟨i, h, rfl⟩
  · exact ⟨i, h, rfl⟩

/-- The event of a row by the priority of its word (rule R99). -/
theorem decode_priority {v : Variant} {ph : Phase} {w : PortWord} {i : Instr} (h : decode v ph w = .ok i) :
    match inputOf i with
    | .rst => portPriority w = 1
    | .done _ => portPriority w = 2
    | .req c => portPriority w = 3 ∧ c.variant = v := by
  have h' := (decode_ok h).2
  cases w <;> simp only [RowOn] at h'
  · subst h'; rfl
  · obtain ⟨d, rfl⟩ := h'; cases ph <;> cases d <;> rfl
  · obtain ⟨_, _, _, _, rfl⟩ := h'; rfl
  · obtain ⟨c, hc, rfl⟩ := h'
    subst hc
    cases ph <;> cases c <;> exact ⟨rfl, rfl⟩
  · obtain ⟨c, hc, rfl⟩ := h'; rw [hc]; exact ⟨rfl, rfl⟩
  · obtain ⟨c, hc, rfl⟩ := h'; rw [hc]; exact ⟨rfl, rfl⟩

end Machine

end Sys2Proof
end

