-- ==== Sys2Proof/Laws/State.lean ====
section
/-! SUPPORT. Laws/State: what each shared update leaves in each field, so that no proof unfolds a record update. -/

namespace Sys2Proof.Machine

@[simp] theorem startTxn_phase (F : Frame) (s : State) : (s.startTxn F).phase = .busy := rfl
@[simp] theorem startTxn_cmdReg (F : Frame) (s : State) : (s.startTxn F).cmdReg = F.word24 := rfl
@[simp] theorem startTxn_outputs (F : Frame) (s : State) : (s.startTxn F).outputs = [.busReq (txnOf F)] := rfl
@[simp] theorem startTxn_req (F : Frame) (s : State) : (s.startTxn F).req = none := rfl
@[simp] theorem startTxn_inputs (F : Frame) (s : State) : (s.startTxn F).inputs = s.inputs := rfl

@[simp] theorem holdRequest_phase (c : Channel) (s : State) : (s.holdRequest c).phase = s.phase := rfl
@[simp] theorem holdRequest_cmdReg (c : Channel) (s : State) : (s.holdRequest c).cmdReg = s.cmdReg := rfl
@[simp] theorem holdRequest_outputs (c : Channel) (s : State) : (s.holdRequest c).outputs = [] := rfl
@[simp] theorem holdRequest_req (c : Channel) (s : State) : (s.holdRequest c).req = some [c.code8] := rfl
@[simp] theorem holdRequest_inputs (c : Channel) (s : State) : (s.holdRequest c).inputs = s.inputs := rfl

@[simp] theorem respond_phase (r : Response) (s : State) : (s.respond r).phase = .idle := rfl
@[simp] theorem respond_cmdReg (r : Response) (s : State) : (s.respond r).cmdReg = s.cmdReg := rfl
@[simp] theorem respond_outputs (r : Response) (s : State) : (s.respond r).outputs = [.rsp r] := rfl
@[simp] theorem respond_req (r : Response) (s : State) : (s.respond r).req = s.req := rfl
@[simp] theorem respond_inputs (r : Response) (s : State) : (s.respond r).inputs = s.inputs := rfl

@[simp] theorem raiseBusFault_phase (f : FaultT) (s : State) : (s.raiseBusFault f).phase = .idle := rfl
@[simp] theorem raiseBusFault_cmdReg (f : FaultT) (s : State) : (s.raiseBusFault f).cmdReg = s.cmdReg := rfl
@[simp] theorem raiseBusFault_outputs (f : FaultT) (s : State) : (s.raiseBusFault f).outputs = [.rsp (.err f)] := rfl
@[simp] theorem raiseBusFault_req (f : FaultT) (s : State) : (s.raiseBusFault f).req = s.req := rfl
@[simp] theorem raiseBusFault_inputs (f : FaultT) (s : State) : (s.raiseBusFault f).inputs = s.inputs := rfl

@[simp] theorem ignoreDone_phase (s : State) : s.ignoreDone.phase = s.phase := rfl
@[simp] theorem ignoreDone_cmdReg (s : State) : s.ignoreDone.cmdReg = s.cmdReg := rfl
@[simp] theorem ignoreDone_outputs (s : State) : s.ignoreDone.outputs = [] := rfl
@[simp] theorem ignoreDone_req (s : State) : s.ignoreDone.req = s.req := rfl
@[simp] theorem ignoreDone_inputs (s : State) : s.ignoreDone.inputs = s.inputs := rfl

@[simp] theorem resetBlock_phase (s : State) : s.resetBlock.phase = .idle := rfl
@[simp] theorem resetBlock_cmdReg (s : State) : s.resetBlock.cmdReg = 0x000000#24 := rfl
@[simp] theorem resetBlock_outputs (s : State) : s.resetBlock.outputs = [] := rfl
@[simp] theorem resetBlock_req (s : State) : s.resetBlock.req = s.req := rfl
@[simp] theorem resetBlock_inputs (s : State) : s.resetBlock.inputs = s.inputs := rfl

@[simp] theorem advance_phase (s : State) : s.advance.phase = s.phase := rfl
@[simp] theorem advance_cmdReg (s : State) : s.advance.cmdReg = s.cmdReg := rfl
@[simp] theorem advance_outputs (s : State) : s.advance.outputs = [] := rfl
@[simp] theorem advance_req (s : State) : s.advance.req = s.presentedReq := rfl
@[simp] theorem advance_inputs (s : State) : s.advance.inputs = s.inputs.tail := rfl

end Sys2Proof.Machine
end

