-- ==== Sys2Proof/Laws/Exec.lean ====
section
/-! SUPPORT. Laws/Exec: what each shared operation and `exec` can do, said once. -/

namespace Sys2Proof.Machine

theorem cmdFrame8_eq_encodeFrame (c : BitVec 3) : cmdFrame8 c = encodeFrame (.ch8 c) := by
  revert c; decide

theorem cmdFrame4_eq_encodeFrame (c : BitVec 2) : cmdFrame4 c = encodeFrame (.ch4 c) := by
  revert c; decide

/-- The state an input event leaves, by the guards of rule R80. -/
theorem onRequest_idle {c : Channel} {F : Frame} {s : State} (h : s.phase = .idle) : onRequest c F s = s.startTxn F := by
  simp [onRequest, h]

theorem onRequest_busy {c : Channel} {F : Frame} {s : State} (h : s.phase = .busy) : onRequest c F s = s.holdRequest c := by
  simp [onRequest, h]

theorem onCompletion_busy {d : Completion} {s : State} (h : s.phase = .busy) :
    onCompletion d s = s.respond (answerOf d) := by
  cases d <;> simp [onCompletion, h, answerOf, State.raiseBusFault]

theorem onCompletion_idle {d : Completion} {s : State} (h : s.phase = .idle) : onCompletion d s = s.ignoreDone := by
  simp [onCompletion, h]

/-- What an input event makes of a state. -/
def effect : Input → State → State
  | .req c, s => onRequest c (encodeFrame c) s
  | .done d, s => onCompletion d s
  | .rst, s => s.resetBlock

/-- Every row is the effect of its event. -/
theorem exec_eq (i : Instr) (s : State) : exec i s = .next (effect (inputOf i) s) := by
  cases i <;>
    simp [exec, effect, inputOf, execReadSe8, execReadSe4, execReadSe8Ch0, execReadSe8Ch1, execReadSe8Ch2, execReadSe8Ch3,
      execReadSe8Ch4, execReadSe8Ch5, execReadSe8Ch6, execReadSe8Ch7, execReadSe4Ch0, execReadSe4Ch1, execReadSe4Ch2,
      execReadSe4Ch3, execReply, execIssueCh8, execIssueCh4, execHold, execCompleteOk, execCompleteFault, execIgnoreDone,
      execReset, cmdFrame8_eq_encodeFrame, cmdFrame4_eq_encodeFrame] <;>
    rfl

/-- What `exec` can do when it goes on. -/
theorem exec_next {i : Instr} {s t : State} (h : exec i s = .next t) : t = effect (inputOf i) s := by
  rw [exec_eq] at h; simpa using h.symm

/-- What a step can do when it goes on. -/
theorem step_next {v : Variant} {s t : State} (h : stepOf v s = .next t) :
    (s.fetch = none ∧ t = s.advance) ∨
    ∃ w i, s.fetch = some w ∧ decode v s.phase w = .ok i ∧ t = effect (inputOf i) s.advance := by
  unfold stepOf at h
  split at h
  · next hf => exact .inl ⟨hf, by simpa using h.symm⟩
  · next w hf =>
    split at h
    · next i hd => exact .inr ⟨w, i, hf, hd, exec_next h⟩
    · next e hd => cases e <;> simp [stopOf] at h

end Sys2Proof.Machine
end

