-- ==== Sys2Proof/Laws/Fetch.lean ====
section
/-! SUPPORT. Laws/Fetch: which word a step takes, and what a step does by the event it takes. -/

namespace Sys2Proof.Machine

theorem presentedReq_eq_some {s : State} {bs : List Byte} (h : s.presentedReq = some bs) :
    .reqCh bs ∈ s.cycle ∨ s.req = some bs ∧ ∀ u ∈ s.cycle, requestBytes? u = none := by
  rcases Option.or_eq_some_iff.1 h with h1 | ⟨h1, h2⟩
  · obtain ⟨w, hm, hw⟩ := List.exists_of_findSome?_eq_some h1
    cases w <;> cases hw
    exact .inl hm
  · exact .inr ⟨h2, by simpa using h1⟩

/-- What a step takes and what it then does not take: a presented word with nothing of higher priority beside it, or, with nothing of
the first two priorities presented, the request kept from before. -/
theorem fetch_cases {s : State} {w : PortWord} (h : s.fetch = some w) :
    (w ∈ s.cycle ∧ isEvent w = true ∧ ∀ u ∈ s.cycle, ∀ k < portPriority w, hasPriority k u = false) ∨
    (∃ bs, s.req = some bs ∧ w = .reqCh bs ∧ ∀ u ∈ s.cycle, ∀ k < 3, hasPriority k u = false) := by
  have mem_of : ∀ {k w}, s.cycle.find? (hasPriority k) = some w → w ∈ s.cycle ∧ isEvent w = true ∧ portPriority w = k := by
    intro k w hw
    have := List.find?_some hw
    simp only [hasPriority, Bool.and_eq_true, beq_iff_eq] at this
    exact ⟨List.mem_of_find?_eq_some hw, this.2, this.1⟩
  have below : ∀ {m : Nat}, m ≤ 3 → (1 < m → s.cycle.find? (hasPriority 1) = none) →
      (2 < m → s.cycle.find? (hasPriority 2) = none) → ∀ u ∈ s.cycle, ∀ k < m, hasPriority k u = false := by
    intro m hm h1 h2 u hu k hk
    have : k = 0 ∨ k = 1 ∨ k = 2 := by omega
    rcases this with rfl | rfl | rfl
    · cases u <;> rfl
    · simpa using List.find?_eq_none.1 (h1 hk) u hu
    · simpa using List.find?_eq_none.1 (h2 hk) u hu
  unfold State.fetch at h
  simp only [Option.or_eq_some_iff] at h
  rcases h with h1 | ⟨h1, hd | ⟨_, h2 | ⟨h2, hr | ⟨_, h3⟩⟩⟩⟩
  · obtain ⟨hm, he, hp⟩ := mem_of h1
    exact .inl ⟨hm, he, hp ▸ below (by omega) (by omega) (by omega)⟩
  · have hm := List.mem_of_find?_eq_some hd
    have hw := List.find?_some hd
    cases w <;> simp only [isDone, Bool.false_eq_true] at hw
    exact .inl ⟨hm, rfl, below (m := 2) (by omega) (fun _ => h1) (by omega)⟩
  · obtain ⟨hm, he, hp⟩ := mem_of h2
    exact .inl ⟨hm, he, hp ▸ below (by omega) (fun _ => h1) (by omega)⟩
  · obtain ⟨bs, hb, rfl⟩ := Option.map_eq_some_iff.1 hr
    have hb3 := below (m := 3) (by omega) (fun _ => h1) (fun _ => h2)
    rcases presentedReq_eq_some hb with hm | ⟨hq, _⟩
    · exact .inl ⟨hm, rfl, hb3⟩
    · exact .inr ⟨bs, hq, rfl, hb3⟩
  · obtain ⟨hm, he, hp⟩ := mem_of h3
    exact .inl ⟨hm, he, hp ▸ below (by omega) (fun _ => h1) (fun _ => h2)⟩

/-- Nothing is taken only where nothing is presented. -/
theorem fetch_none {s : State} (h : s.fetch = none) :
    presentsReset s.cycle = false ∧ presentsCompletion s.cycle = false ∧ s.presentedReq = none := by
  simp only [State.fetch, Option.or_eq_none_iff, Option.map_eq_none_iff] at h
  obtain ⟨h1, _, h2, h3, _⟩ := h
  exact ⟨List.any_eq_false.2 (List.find?_eq_none.1 h1), List.any_eq_false.2 (List.find?_eq_none.1 h2), h3⟩

theorem any_of_mem {k : Nat} {w : PortWord} {cyc : Cycle} (hm : w ∈ cyc) (he : isEvent w = true)
    (hp : portPriority w = k) : cyc.any (hasPriority k) = true :=
  List.any_eq_true.2 ⟨w, hm, by simp [hasPriority, he, hp]⟩

/-- The row a step takes comes from the word of its event: a reset from a presented reset, a completion from a presented
completion, each only where nothing of higher priority is presented. -/
theorem fetchRow_cases {v : Variant} {s : State} {i : Instr} (h : s.fetchRow v = some i) :
    ∃ w, s.fetch = some w ∧ decode v s.phase w = .ok i ∧ wellFormed v i = true ∧
      (inputOf i = .rst → presentsReset s.cycle = true) ∧
      (∀ d, inputOf i = .done d → presentsCompletion s.cycle = true ∧ presentsReset s.cycle = false) ∧
      (∀ c, inputOf i = .req c → c.variant = v ∧ presentsReset s.cycle = false ∧
        presentsCompletion s.cycle = false ∧ (presentsRequest s.cycle = true ∨ ∃ bs, s.req = some bs)) := by
  unfold State.fetchRow at h
  split at h
  · cases h
  · next w hw =>
    have hd : decode v s.phase w = .ok i := by
      cases hx : decode v s.phase w with
      | error e => rw [hx] at h; cases h
      | ok j => rw [hx] at h; cases h; rfl
    have hp := decode_priority hd
    refine ⟨w, hw, hd, (decode_ok hd).1, ?_⟩
    have none_of : ∀ k, k < portPriority w → s.cycle.any (hasPriority k) = false := by
      intro k hk
      rcases fetch_cases hw with ⟨_, _, hn⟩ | ⟨bs, _, rfl, hn⟩ <;>
      exact List.any_eq_false.2 fun u hu => by simp [hn u hu k hk]
    have some_of : ∀ k, portPriority w = k → k ≠ 3 → s.cycle.any (hasPriority k) = true := by
      intro k hk h3
      rcases fetch_cases hw with ⟨hm, he, _⟩ | ⟨bs, _, rfl, _⟩
      · exact any_of_mem hm he hk
      · exact absurd hk.symm h3
    refine ⟨fun e => ?_, fun d e => ?_, fun c e => ?_⟩
    · rw [e] at hp; exact some_of 1 hp (by decide)
    · rw [e] at hp; exact ⟨some_of 2 hp (by decide), none_of 1 (by omega)⟩
    · rw [e] at hp
      refine ⟨hp.2, none_of 1 (by omega), none_of 2 (by omega), ?_⟩
      rcases fetch_cases hw with ⟨hm, he, _⟩ | ⟨bs, hr, _, _⟩
      · exact .inl (any_of_mem hm he hp.1)
      · exact .inr ⟨bs, hr⟩

theorem fetchRow_eq_some {v : Variant} {s : State} {w : PortWord} {i : Instr} (hw : s.fetch = some w)
    (hd : decode v s.phase w = .ok i) : s.fetchRow v = some i := by
  simp [State.fetchRow, hw, hd, Except.toOption]

theorem step_of_fetchRow {v : Variant} {s : State} {i : Instr} (h : s.fetchRow v = some i) :
    stepOf v s = .next (effect (inputOf i) s.advance) := by
  obtain ⟨w, hw, hd, _⟩ := fetchRow_cases h
  simp only [stepOf, hw, hd]
  exact exec_eq i s.advance

/-- What a step can do when it goes on, by the row it takes. -/
theorem step_next_row {v : Variant} {s t : State} (h : stepOf v s = .next t) :
    (s.fetchRow v = none ∧ s.fetch = none ∧ t = s.advance) ∨
    ∃ i, s.fetchRow v = some i ∧ t = effect (inputOf i) s.advance := by
  rcases step_next h with ⟨hf, ht⟩ | ⟨w, i, hw, hd, ht⟩
  · exact .inl ⟨by simp [State.fetchRow, hf], hf, ht⟩
  · exact .inr ⟨i, fetchRow_eq_some hw hd, ht⟩

@[simp] theorem effect_inputs (e : Input) (s : State) : (effect e s).inputs = s.inputs := by
  cases e with
  | req c => cases hp : s.phase <;> simp [effect, onRequest, hp]
  | done d => cases hp : s.phase <;> cases d <;> simp [effect, onCompletion, hp]
  | rst => rfl

/-- No step changes what is still to be presented, but for the cycle it consumes. -/
theorem step_inputs {v : Variant} {s t : State} (h : stepOf v s = .next t) : t.inputs = s.inputs.tail := by
  rcases step_next_row h with ⟨_, _, rfl⟩ | ⟨i, _, rfl⟩ <;> simp

/-- What a step can do when it goes on, by the event it takes: nothing, ISSUE or HOLD, a response or an ignored completion, a
reset.  Every statement about steps is a case analysis of this. -/
theorem step_cases {v : Variant} {s t : State} (h : stepOf v s = .next t) :
    (s.fetchRow v = none ∧ s.fetch = none ∧ t = s.advance) ∨
    (∃ i c, s.fetchRow v = some i ∧ inputOf i = .req c ∧ c.variant = v ∧
      presentsReset s.cycle = false ∧ presentsCompletion s.cycle = false ∧
      (presentsRequest s.cycle = true ∨ ∃ bs, s.req = some bs) ∧
      (s.phase = .idle ∧ t = s.advance.startTxn (encodeFrame c) ∨ s.phase = .busy ∧ t = s.advance.holdRequest c)) ∨
    (∃ i d, s.fetchRow v = some i ∧ inputOf i = .done d ∧ presentsCompletion s.cycle = true ∧ presentsReset s.cycle = false ∧
      (s.phase = .busy ∧ t = s.advance.respond (answerOf d) ∨ s.phase = .idle ∧ t = s.advance.ignoreDone)) ∨
    (∃ i, s.fetchRow v = some i ∧ inputOf i = .rst ∧ presentsReset s.cycle = true ∧ t = s.advance.resetBlock) := by
  rcases step_next_row h with h1 | ⟨i, hi, rfl⟩
  · exact .inl h1
  · right
    obtain ⟨w, _, _, _, hr, hd, hq⟩ := fetchRow_cases hi
    cases he : inputOf i with
    | req c =>
      left
      obtain ⟨h1, h2, h3, h4⟩ := hq c he
      refine ⟨i, c, hi, he, h1, h2, h3, h4, ?_⟩
      cases hp : s.phase
      · left; exact ⟨rfl, onRequest_idle (by simpa using hp)⟩
      · right; exact ⟨rfl, onRequest_busy (by simpa using hp)⟩
    | done d =>
      right; left
      obtain ⟨h1, h2⟩ := hd d he
      refine ⟨i, d, hi, he, h1, h2, ?_⟩
      cases hp : s.phase
      · right; exact ⟨rfl, onCompletion_idle (by simpa using hp)⟩
      · left; exact ⟨rfl, onCompletion_busy (by simpa using hp)⟩
    | rst => right; right; exact ⟨i, hi, he, hr he, rfl⟩

/-- The coming cycle is empty or one of those still to be presented. -/
theorem cycle_mem {s : State} : s.cycle = [] ∨ s.cycle ∈ s.inputs := by
  cases h : s.inputs <;> simp [State.cycle, h]


/-! ### Runs -/

@[simp] theorem runN_zero (v : Variant) (s : State) : runN v 0 s = .next s := rfl

/-- The host's run, one step unfolded, for any machine. -/
theorem coreRun_succ_of_next (M : Host.Core) (n : Nat) {s t : M.State} (h : M.step s = .next t) :
    M.run (n + 1) s = M.run n t := by
  simp [Host.Core.run, h]

theorem coreRun_succ (M : Host.Core) (n : Nat) {s u : M.State} (h : M.run (n + 1) s = .next u) :
    ∃ t, M.step s = .next t ∧ M.run n t = .next u := by
  rw [Host.Core.run] at h
  split at h
  · next t ht => exact ⟨t, ht, h⟩
  · cases h
  · cases h

theorem runN_succ_of_next {v : Variant} {s t : State} (h : stepOf v s = .next t) (n : Nat) : runN v (n + 1) s = runN v n t :=
  coreRun_succ_of_next (coreOf v) n h

theorem runN_succ {v : Variant} {n : Nat} {s u : State} (h : runN v (n + 1) s = .next u) :
    ∃ t, stepOf v s = .next t ∧ runN v n t = .next u :=
  coreRun_succ (coreOf v) n h

@[simp] theorem trace_zero (v : Variant) (s : State) : trace v 0 s = [] := rfl

theorem trace_succ_of_next {v : Variant} {s t : State} (h : stepOf v s = .next t) (n : Nat) : trace v (n + 1) s = t.outputs ++ trace v n t := by
  simp [trace, h]

@[simp] theorem owed_zero (v : Variant) (o : Nat) (s : State) : owed v o 0 s = o := rfl

theorem owed_succ_of_next {v : Variant} {s t : State} (h : stepOf v s = .next t) (o n : Nat) : owed v o (n + 1) s = owed v (owedNext o s t) n t := by
  simp [owed, h]

/-- A run and its trace, split at a step. -/
theorem runN_induction {v : Variant} {P : Nat → State → State → Prop} (base : ∀ s, P 0 s s)
    (next : ∀ n s t u, stepOf v s = .next t → runN v n t = .next u → P n t u → P (n + 1) s u) :
    ∀ n s u, runN v n s = .next u → P n s u := by
  intro n
  induction n with
  | zero => intro s u h; rw [runN_zero] at h; cases h; exact base s
  | succ n ih =>
    intro s u h
    obtain ⟨t, hs, ht⟩ := runN_succ h
    exact next n s t u hs ht (ih t u ht)

/-- An IDLE block to which nothing is presented any more rests: it outputs nothing, and the collaborator owes what it owed. -/
theorem rest_run {v : Variant} {s : State} (hp : s.phase = .idle) (hi : s.inputs = []) (hr : s.req = none) (o n : Nat) :
    owed v o n s = o ∧ ∀ u, runN v n s = .next u → u.phase = .idle ∧ u.inputs = [] := by
  induction n generalizing s with
  | zero => exact ⟨rfl, fun u h => by rw [runN_zero] at h; cases h; exact ⟨hp, hi⟩⟩
  | succ n ih =>
    have hs : stepOf v s = .next s.advance := by simp [stepOf, State.fetch, State.cycle, State.presentedReq, hi, hr]
    have hc : s.cycle = [] := by simp [State.cycle, hi]
    have ho : owedNext o s s.advance = o := by simp [owedNext, hc, presentsCompletion, txnCount]
    rw [owed_succ_of_next hs, runN_succ_of_next hs, ho]
    exact ih hp (by simp [hi]) (by simp [State.presentedReq, hc, hr])

end Sys2Proof.Machine
end

