-- ==== Sys2Proof/Laws/PerInstr.lean ====
section
/-! SUPPORT. Laws/PerInstr: one law for every constructor of Instr. -/

namespace Sys2Proof.Laws.EncodeFormat

/-- A word has the length of its format (rule R45): CMD24 and RSP24 three bytes, REQ and CTRL one, DONE the payload that its `bus_ok`
selects. -/
def Fits : PortWord → Prop
  | .rst bs => bs.length = 1
  | .done ok (.rdata _) => ok = 1#1
  | .done ok (.fault _) => ok = 0#1
  | .readOp bs => bs.length = 3
  | .reqCh bs => bs.length = 1
  | .busWdata bs => bs.length = 3
  | .writeOp bs => bs.length = 3

/-- The word of a row has its format's length on its carrier. -/
def Statement (i : Instr) : Prop := Fits (encode i)

theorem fits_completion (d : Completion) : Fits (encodeCompletion d) := by cases d <;> rfl

theorem readSe8 (ch : BitVec 3) : Statement (.readSe8 ch) := rfl
theorem readSe4 (ch : BitVec 2) : Statement (.readSe4 ch) := rfl
theorem readSe8Ch0 : Statement .readSe8Ch0 := rfl
theorem readSe8Ch1 : Statement .readSe8Ch1 := rfl
theorem readSe8Ch2 : Statement .readSe8Ch2 := rfl
theorem readSe8Ch3 : Statement .readSe8Ch3 := rfl
theorem readSe8Ch4 : Statement .readSe8Ch4 := rfl
theorem readSe8Ch5 : Statement .readSe8Ch5 := rfl
theorem readSe8Ch6 : Statement .readSe8Ch6 := rfl
theorem readSe8Ch7 : Statement .readSe8Ch7 := rfl
theorem readSe4Ch0 : Statement .readSe4Ch0 := rfl
theorem readSe4Ch1 : Statement .readSe4Ch1 := rfl
theorem readSe4Ch2 : Statement .readSe4Ch2 := rfl
theorem readSe4Ch3 : Statement .readSe4Ch3 := rfl
theorem reply (null0 : BitVec 8) (null1 : BitVec 6) (dHi : BitVec 2) (dLo : BitVec 8) :
    Statement (.reply null0 null1 dHi dLo) := rfl
theorem issueCh8 (ch : BitVec 3) : Statement (.issueCh8 ch) := rfl
theorem issueCh4 (ch : BitVec 2) : Statement (.issueCh4 ch) := rfl
theorem hold (ch : Channel) : Statement (.hold ch) := rfl
theorem completeOk (r : Frame) : Statement (.completeOk r) := fits_completion (.ok r)
theorem completeFault (f : FaultT) : Statement (.completeFault f) := fits_completion (.fault f)
theorem ignoreDone (d : Completion) : Statement (.ignoreDone d) := fits_completion d
theorem reset : Statement .reset := rfl

end Sys2Proof.Laws.EncodeFormat
end

