-- ==== Sys2Proof/Tests/Slice0.lean ====
section
/-! SUPPORT. Tests/Slice0: the author's own tests.  Every expected value is from spec/95_test_vectors.md, the tables of
spec/30_encoding.md or the opcode table, or calculated by hand from them; then one witness for the hypotheses of each
statement of Certificates/Slice0/Obligations.lean. -/

namespace Sys2Proof.Tests

open Sys2Proof.Machine

/-- A state in which `cycles` is what the outside presents. -/
def st (ph : Phase) (cmd : Word24) (req : Option (List Byte)) (cycles : List Cycle) : State :=
  { phase := ph, cmdReg := cmd, outputs := [], req := req, inputs := cycles }

/-- The next state of an answer. -/
def nextOf : Answer → Option State
  | .next t => some t
  | .fault _ => none
  | .refused _ => none

/-- PHASE, CMD_REG and the outputs after a step, as the vectors of section L2-S list them. -/
def shown (a : Answer) : Option (Phase × Word24 × List Output) := (nextOf a).map fun t => (t.phase, t.cmdReg, t.outputs)

/-! ### WellFormed refuses -/

theorem test_wf_refuses_readSe4_on_ch8 : wellFormed .ch8 (.readSe4 1#2) = false := by decide
theorem test_wf_refuses_readSe8Ch7_on_ch4 : wellFormed .ch4 .readSe8Ch7 = false := by decide
theorem test_wf_refuses_issueCh8_on_ch4 : wellFormed .ch4 (.issueCh8 5#3) = false := by decide
theorem test_wf_refuses_issueCh4_on_ch8 : wellFormed .ch8 (.issueCh4 1#2) = false := by decide
theorem test_wf_refuses_hold_of_other_variant : wellFormed .ch4 (.hold (.ch8 2#3)) = false := by decide
theorem test_wf_accepts_hold_of_own_variant : wellFormed .ch4 (.hold (.ch4 2#2)) = true := by decide

/-! ### Decoding, one word for each constructor, written out from R28, R49 to R54 -/

theorem test_decode_readSe8 :
    decode .ch8 .idle (.busWdata [0b00000001#8, 0b11100000#8, 0b00000000#8]) = .ok (.readSe8 0b110#3) := by rfl
theorem test_decode_readSe4 :
    decode .ch4 .busy (.busWdata [0b00000001#8, 0b10100000#8, 0b00000000#8]) = .ok (.readSe4 0b10#2) := by rfl
theorem test_decode_readSe8Ch0 : decode .ch8 .idle (.writeOp [0x01#8, 0b10000000#8, 0x00#8]) = .ok .readSe8Ch0 := by rfl
theorem test_decode_readSe8Ch1 : decode .ch8 .idle (.writeOp [0x01#8, 0b10010000#8, 0x00#8]) = .ok .readSe8Ch1 := by rfl
theorem test_decode_readSe8Ch2 : decode .ch8 .idle (.writeOp [0x01#8, 0b10100000#8, 0x00#8]) = .ok .readSe8Ch2 := by rfl
theorem test_decode_readSe8Ch3 : decode .ch8 .idle (.writeOp [0x01#8, 0b10110000#8, 0x00#8]) = .ok .readSe8Ch3 := by rfl
theorem test_decode_readSe8Ch4 : decode .ch8 .idle (.writeOp [0x01#8, 0b11000000#8, 0x00#8]) = .ok .readSe8Ch4 := by rfl
theorem test_decode_readSe8Ch5 : decode .ch8 .idle (.writeOp [0x01#8, 0b11010000#8, 0x00#8]) = .ok .readSe8Ch5 := by rfl
theorem test_decode_readSe8Ch6 : decode .ch8 .idle (.writeOp [0x01#8, 0b11100000#8, 0x00#8]) = .ok .readSe8Ch6 := by rfl
theorem test_decode_readSe8Ch7 : decode .ch8 .idle (.writeOp [0x01#8, 0b11110000#8, 0x00#8]) = .ok .readSe8Ch7 := by rfl
theorem test_decode_readSe4Ch0 : decode .ch4 .idle (.writeOp [0x01#8, 0b10000000#8, 0x00#8]) = .ok .readSe4Ch0 := by rfl
theorem test_decode_readSe4Ch1 : decode .ch4 .idle (.writeOp [0x01#8, 0b10010000#8, 0x00#8]) = .ok .readSe4Ch1 := by rfl
theorem test_decode_readSe4Ch2 : decode .ch4 .idle (.writeOp [0x01#8, 0b10100000#8, 0x00#8]) = .ok .readSe4Ch2 := by rfl
theorem test_decode_readSe4Ch3 : decode .ch4 .idle (.writeOp [0x01#8, 0b10110000#8, 0x00#8]) = .ok .readSe4Ch3 := by rfl
theorem test_decode_reply : decode .ch8 .busy (.readOp [0b00000001#8, 0b11010011#8, 0x5A#8]) =
    .ok (.reply 0x01#8 0b110100#6 0b11#2 0x5A#8) := by rfl
theorem test_decode_issueCh8 : decode .ch8 .idle (.reqCh [0b111#8]) = .ok (.issueCh8 0b111#3) := by rfl
theorem test_decode_issueCh4 : decode .ch4 .idle (.reqCh [0b10#8]) = .ok (.issueCh4 0b10#2) := by rfl
theorem test_decode_hold : decode .ch4 .busy (.reqCh [0b11#8]) = .ok (.hold (.ch4 0b11#2)) := by rfl
theorem test_decode_completeOk : decode .ch4 .busy (.done 1#1 (.rdata 0xAA55AA#24)) =
    .ok (.completeOk ⟨0xAA#8, 0x55#8, 0xAA#8⟩) := by rfl
theorem test_decode_completeFault : decode .ch4 .busy (.done 0#1 (.fault 2)) =
    .ok (.completeFault (BitVec.ofNat Config.faultW 2)) := by rfl
theorem test_decode_ignoreDone : decode .ch8 .idle (.done 0#1 (.fault 2)) =
    .ok (.ignoreDone (.fault (BitVec.ofNat Config.faultW 2))) := by rfl
theorem test_decode_reset : decode .ch8 .busy (.rst [0b1#8]) = .ok .reset := by rfl

/-- 0x010000 has SGL clear: a differential frame (section L2-E). -/
theorem test_decode_rejects_differential :
    decode .ch8 .idle (.busWdata [0x01#8, 0x00#8, 0x00#8]) = .error (.neverEmittedFrame .differential) := by rfl
/-- A CH8 word for channel 4 fails the CH4 mask (section L2-E). -/
theorem test_decode_rejects_channel_4_on_ch4 :
    decode .ch4 .idle (.writeOp [0x01#8, 0xC0#8, 0x00#8]) = .error (.neverEmittedFrame .channelOutOfRange) := by rfl
theorem test_decode_rejects_fault_in_ok_word : decode .ch8 .busy (.done 1#1 (.fault 1)) = .error .badLength := by rfl
theorem test_decode_rejects_reply_in_fault_word : decode .ch8 .busy (.done 0#1 (.rdata 0x000123#24)) = .error .badLength := by rfl
theorem test_decode_rejects_short_read : decode .ch8 .busy (.readOp [0x00#8, 0x01#8]) = .error .badLength := by rfl

/-! ### Codec vectors (sections L1, L2-E, L2-D) -/

theorem test_encode_scenario_A : (encodeFrame (.ch8 0#3)).word24 = 0x018000#24 := by decide
theorem test_encode_scenario_B : (encodeFrame (.ch8 7#3)).word24 = 0x01F000#24 := by decide
theorem test_encode_scenario_C : (encodeFrame (.ch4 3#2)).word24 = 0x01B000#24 := by decide
theorem test_decode_scenario_D : decodeFrame ⟨0x00#8, 0x02#8, 0xFF#8⟩ = 767#10 := by decide
theorem test_decode_masks_null_bits : decodeFrame ⟨0xFF#8, 0xFE#8, 0xFF#8⟩ = 767#10 := by decide
/-- A sign-extending decoder would give 0x380 here (91_not_in_source.md N11). -/
theorem test_decode_zero_extends : decodeFrame ⟨0x00#8, 0x00#8, 0x80#8⟩ = 0x080#10 := by decide

/-! ### Steps (section L2-S) -/

theorem test_S1_issue : shown (stepOf .ch8 (st .idle 0x000000#24 none [[(.reqCh [0#8])]])) =
    some (.busy, 0x018000#24, [.busReq [.write ⟨0x01#8, 0x80#8, 0x00#8⟩, .read 3]]) := by decide
theorem test_S3_hold : shown (stepOf .ch8 (st .busy 0x01F000#24 none [[(.reqCh [2#8])]])) =
    some (.busy, 0x01F000#24, []) := by decide
theorem test_S3_request_stays : ((nextOf (stepOf .ch8 (st .busy 0x01F000#24 none [[(.reqCh [2#8])]]))).bind (·.req)) =
    some [2#8] := by decide
theorem test_S4_complete_ok : shown (stepOf .ch8 (st .busy 0x01F000#24 none [[(.done 1#1 (.rdata 0x0002FF#24))]])) =
    some (.idle, 0x01F000#24, [.rsp (.ok 767#10)]) := by decide
theorem test_S5_complete_fault (f : FaultT) : exec (.completeFault f) (st .busy 0x018000#24 none []) =
    .next { phase := .idle, cmdReg := 0x018000#24, outputs := [.rsp (.err f)], req := none, inputs := [] } := by
  rfl
theorem test_S6_ignore_done : shown (stepOf .ch8 (st .idle 0x018000#24 none [[(.done 1#1 (.rdata 0x0003FF#24))]])) =
    some (.idle, 0x018000#24, []) := by decide
theorem test_S7_ignore_fault (f : FaultT) : shown (exec (.ignoreDone (.fault f)) (st .idle 0x018000#24 none [])) =
    some (.idle, 0x018000#24, []) := by rfl
theorem test_S8_reset_while_busy : shown (stepOf .ch8 (st .busy 0x01D000#24 none [[(.rst [1#8])]])) =
    some (.idle, 0x000000#24, []) := by decide
theorem test_S10_issue_ch4 : shown (stepOf .ch4 (st .idle 0x000000#24 none [[(.reqCh [3#8])]])) =
    some (.busy, 0x01B000#24, [.busReq [.write ⟨0x01#8, 0xB0#8, 0x00#8⟩, .read 3]]) := by decide
theorem test_S11_all_ones : shown (stepOf .ch8 (st .busy 0x019000#24 none [[(.done 1#1 (.rdata 0xFFFFFF#24))]])) =
    some (.idle, 0x019000#24, [.rsp (.ok 1023#10)]) := by decide
theorem test_S12_reset_wins : shown (stepOf .ch8 (st .busy 0x018000#24 none
      [[(.reqCh [3#8]), (.done 1#1 (.rdata 0x000001#24)), (.rst [1#8])]])) =
    some (.idle, 0x000000#24, []) := by decide
/-- S13 then S14: the request presented beside the completion is held, and accepted one step later. -/
theorem test_S13_S14 : shown (runN .ch8 2 (st .busy 0x018000#24 none
      [[(.reqCh [3#8]), (.done 1#1 (.rdata 0x000001#24))], []])) =
    some (.busy, 0x01B000#24, [.busReq [.write ⟨0x01#8, 0xB0#8, 0x00#8⟩, .read 3]]) := by decide
theorem test_S13_response : shown (stepOf .ch8 (st .busy 0x018000#24 none
      [[(.reqCh [3#8]), (.done 1#1 (.rdata 0x000001#24))], []])) =
    some (.idle, 0x018000#24, [.rsp (.ok 1#10)]) := by decide
/-- Program L3-1: the trace of one read of channel 5. -/
theorem test_L3_1 : trace .ch8 2 (st .idle 0x000000#24 none [[(.reqCh [5#8])], [(.done 1#1 (.rdata 0x000123#24))]]) =
    [.busReq [.write ⟨0x01#8, 0xD0#8, 0x00#8⟩, .read 3], .rsp (.ok 291#10)] := by decide

theorem test_readSe8_frame : shown (exec (.readSe8 5#3) (st .idle 0x000000#24 none [])) =
    some (.busy, 0x01D000#24, [.busReq [.write ⟨0x01#8, 0xD0#8, 0x00#8⟩, .read 3]]) := by decide
theorem test_readSe4_frame : shown (exec (.readSe4 2#2) (st .idle 0x000000#24 none [])) =
    some (.busy, 0x01A000#24, [.busReq [.write ⟨0x01#8, 0xA0#8, 0x00#8⟩, .read 3]]) := by decide
theorem test_reply_sample : shown (exec (.reply 0x01#8 0b110100#6 0b11#2 0x5A#8) (st .busy 0x018000#24 none [])) =
    some (.idle, 0x018000#24, [.rsp (.ok 0x35A#10)]) := by decide
/-- The same word on the two blocks: code 4 is a channel of the CH8 block only (R64). -/
theorem test_code_4_is_no_word_of_ch4 :
    stepOf .ch4 (st .idle 0 none [[.reqCh [4#8]]]) = .refused (.noPortWord .codeTooWide) := by rfl
theorem test_code_4_on_ch8 : shown (stepOf .ch8 (st .idle 0 none [[.reqCh [4#8]]])) =
    some (.busy, 0x01C000#24, [.busReq [.write ⟨0x01#8, 0xC0#8, 0x00#8⟩, .read 3]]) := by decide
theorem test_never_emitted_faults :
    stepOf .ch8 (st .idle 0 none [[(.busWdata [0x01#8, 0x00#8, 0x00#8])]]) = .fault (.implementationUnderTest .differential) := by rfl
theorem test_signals_of_fault (f : FaultT) :
    State.rspFault { st .idle 0 none [] with outputs := [.rsp (.err f)] } = f := by rfl

/-! ### Table words -/

theorem test_table_readSe8Ch3 : decodeTableWord 24 0x01B000 = some .readSe8Ch3 := by rfl
theorem test_table_reply : decodeTableWord 24 0x000000 = some (.reply 0 0 0 0) := by rfl
theorem test_table_reset : decodeTableWord 8 1 = some .reset := by rfl
theorem test_table_completeFault : decodeTableWord 8 0 = some (.completeFault (BitVec.ofNat Config.faultW 0)) := by rfl
theorem test_table_issueCh8 : decodeTableWord 8 6 = some (.issueCh8 6#3) := by rfl
theorem test_fetch_word_runs : shown (step (State.reset.withFetchWord 24 0x01C000)) =
    some (.busy, 0x01C000#24, [.busReq [.write ⟨0x01#8, 0xC0#8, 0x00#8⟩, .read 3]]) := by decide

/-! ### Witnesses: each shows a state and operands that meet all hypotheses of the statement it names -/

/-- A BUSY CH8 block with channel 7 outstanding. -/
def busy7 : State := st .busy 0x01F000#24 none []

theorem witness_EncodeIsInjectiveAndShared :
    Channel.variant (.ch8 7#3) = Channel.variant (.ch8 7#3) ∧ encodeFrame (.ch8 7#3) = encodeFrame (.ch8 7#3) := by decide
theorem witness_MatchAndMask_passes : (0x01F000#24 &&& cmdMask .ch8 = cmdMatch .ch8) ∧
    (Channel.ch8 7#3).variant = .ch8 ∧ 0x01F000#24 = (encodeFrame (.ch8 7#3)).word24 := by decide
theorem witness_MatchAndMask_ch4 : (0x01B000#24 &&& cmdMask .ch4 = cmdMatch .ch4) ∧
    (Channel.ch4 3#2).variant = .ch4 ∧ 0x01B000#24 = (encodeFrame (.ch4 3#2)).word24 := by decide
theorem witness_DecodeExtractsTheSample : (0xFE#8).extractLsb' 0 2 = (0x02#8).extractLsb' 0 2 := by decide
theorem witness_DecodeMaskingAndRoundTrip : (3#8).toNat < 4 := by decide
theorem witness_DecodeInvertsEncode : wellFormed .ch8 (.hold (.ch8 7#3)) = true ∧
    Instr.enabledIn (.hold (.ch8 7#3)) .busy = true := by decide
theorem witness_DecodeAccepts : decode .ch4 .idle (.reqCh [3#8]) = .ok (.issueCh4 3#2) := by rfl
theorem witness_NeverEmitted_rejected :
    Frame.word24 ⟨0x01#8, 0xC0#8, 0x00#8⟩ &&& cmdMask .ch4 ≠ cmdMatch .ch4 := by decide
theorem witness_NeverEmitted_accepted :
    Frame.word24 ⟨0x01#8, 0xF0#8, 0x00#8⟩ &&& cmdMask .ch8 = cmdMatch .ch8 := by decide
theorem witness_StepRuns_nothing : State.reset.fetch = none := by decide
theorem witness_StepRuns_row : (st .idle 0 none [[(.reqCh [7#8])]]).fetch = some (.reqCh [7#8]) ∧
    decode .ch8 .idle (.reqCh [7#8]) = .ok (.issueCh8 7#3) := ⟨by decide, rfl⟩
theorem witness_Issue_idle : State.reset.phase = .idle ∧
    (Instr.issueCh8 7#3) = requestRow .idle (.ch8 7#3) := by decide
theorem witness_Issue_later_quiet : (∀ cyc ∈ ([[(.reqCh [2#8])]] : List Cycle), quiet cyc = true) ∧
    (nextOf (runN .ch8 2 (st .busy 0x01F000#24 none [[(.reqCh [2#8])]]))).isSome = true := by decide
theorem witness_Issue_busy : busy7.phase = .busy ∧ (Instr.issueCh4 2#2) = requestRow .idle (.ch4 2#2) := by decide
/-- Also of CompleteFault, Hold, BusyBlockIsPassive, ReplyRow and ResponseDependsOnReplyAlone. -/
theorem witness_busy : busy7.phase = .busy := by decide
theorem witness_CompleteFault_request_follows (f : FaultT) :
    (nextOf (exec (.completeFault f) (st .busy 0x018000#24 none [[(.reqCh [0#8])]]))).bind
      (fun t => (nextOf (step t)).map (·.busStart)) = some 1#1 := by rfl
/-- Also of Ch8FrameRows and Ch4FrameRows. -/
theorem witness_IgnoreDone : State.reset.phase = .idle := by decide
theorem witness_FrameRowsAreHeld : busy7.phase = .busy ∧ inputOf .readSe8Ch7 = .req (.ch8 7#3) := by decide
theorem witness_ExactlyTheRows_idle : State.reset.phase = .idle ∧ inputOf .readSe4Ch3 = .req (.ch4 3#2) := by decide
theorem witness_ExactlyTheRows_busy (f : FaultT) : busy7.phase = .busy ∧ inputOf (.ignoreDone (.fault f)) = .done (.fault f) :=
  ⟨rfl, rfl⟩
theorem witness_ExactlyTheRows_step : (st .idle 0 none [[.reqCh [3#8]]]).fetch ≠ none ∧
    (nextOf (stepOf .ch4 (st .idle 0 none [[.reqCh [3#8]]]))).isSome = true := by decide
theorem witness_EveryRowsFrame : ∃ t, exec .readSe8Ch7 busy7 = .next t := ⟨_, rfl⟩
theorem witness_step_next : ∃ t, stepOf .ch8 (st .busy 0x01F000#24 none [[(.done 1#1 (.rdata 0x0003FF#24))]]) = .next t := ⟨_, rfl⟩
theorem witness_Priority_reset : (st .busy 0x018000#24 none
    [[(.done 1#1 (.rdata 0x000001#24)), (.rst [1#8])]]).cycle.filter (hasPriority 1) = [encode .reset] := by decide
theorem witness_Priority_completion :
    (st .busy 0x018000#24 none [[(.done 1#1 (.rdata 0x000001#24)), (.reqCh [3#8])]]).cycle.filter (hasPriority 1) = [] ∧
    (st .busy 0x018000#24 none [[(.done 1#1 (.rdata 0x000001#24)), (.reqCh [3#8])]]).cycle.filter (hasPriority 2) =
      [encodeCompletion (.ok ⟨0#8, 0#8, 1#8⟩)] := by decide
theorem witness_Priority_request :
    Channel.variant (.ch8 3#3) = .ch8 ∧ (st .idle 0 none [[.reqCh [3#8]]]).cycle.filter (hasPriority 1) = [] ∧
    (st .idle 0 none [[.reqCh [3#8]]]).cycle.filter (hasPriority 2) = [] ∧
    (st .idle 0 none [[.reqCh [3#8]]]).presentedReq = some [Channel.code8 (.ch8 3#3)] := by decide
theorem witness_Priority_held_request :
    (st .idle 0 (some [3#8]) []).cycle = [] ∧
    (st .idle 0 (some [3#8]) []).presentedReq = some [Channel.code8 (.ch8 3#3)] := by decide
/-- `bus_ok` of the DONE word decides (rule R54), wherever the words stand in the list. -/
theorem test_done_word_decides (f : FaultT) :
    shown (stepOf .ch8 (st .busy 0x018000#24 none [[.readOp [0#8, 3#8, 0xFF#8], .done 0#1 (.fault f)]])) =
      some (.idle, 0x018000#24, [.rsp (.err f)]) := by rfl
/-- A CMD24 word beside a held request: the held one is issued (rule R117, log entry 22). -/
theorem witness_NoWordDisplacesARequest :
    (st .idle 0 (some [3#8]) [[.writeOp [0x01#8, 0xF0#8, 0x00#8]]]).presentedReq = some [3#8] ∧
    (st .idle 0 (some [3#8]) [[.writeOp [0x01#8, 0xF0#8, 0x00#8]]]).fetch = some (.reqCh [3#8]) ∧
    portPriority (.reqCh [3#8]) = 3 := by decide
theorem witness_CompletionLiftsTheHold :
    (st .busy 0x018000#24 none [[encodeCompletion (.ok ⟨0#8, 0#8, 1#8⟩), encodeRequest (.ch8 3#3)], []]).phase = .busy ∧
    Channel.variant (.ch8 3#3) = .ch8 := by decide
theorem witness_CompletionLiftsTheHold_kept :
    (st .busy 0x018000#24 (some [7#8]) [[encodeCompletion (.ok ⟨0#8, 0#8, 1#8⟩)], []]).req =
      some [Channel.code8 (.ch8 7#3)] ∧ Channel.variant (.ch8 7#3) = .ch8 := by decide
theorem witness_ChangedHeldRequest :
    (st .idle 0 (some [7#8]) [[encodeRequest (.ch8 7#3)]]).req = some [Channel.code8 (.ch8 7#3)] ∧
    requesterConforms (st .idle 0 (some [7#8]) [[encodeRequest (.ch8 7#3)]]) = true ∧
    requesterConforms (st .idle 0 (some [7#8]) [[encodeRequest (.ch8 2#3)]]) = false := by decide
theorem witness_BusFault (f : FaultT) :
    State.fetchRow .ch8 (st .busy 0x018000#24 none [[encodeCompletion (.fault f)]]) =
      some (.completeFault f) := by rfl
theorem witness_BusFault_success :
    State.fetchRow .ch8 (st .busy 0x018000#24 none [[encodeCompletion (.ok ⟨0#8, 2#8, 0xFF#8⟩)]]) =
      some (.completeOk ⟨0#8, 2#8, 0xFF#8⟩) := by rfl
theorem witness_Hang : (∀ cyc ∈ (st .busy 0x01C000#24 none [[(.reqCh [4#8])]]).inputs, quiet cyc = true) ∧
    (∀ cyc ∈ (st .busy 0x01C000#24 none [[(.reqCh [4#8])]]).inputs, legalCycle .ch8 cyc = true) := by decide
theorem witness_Hang_reset_leaves :
    presentsCompletion (st .busy 0x01C000#24 none [[(.rst [1#8])]]).cycle = false ∧
    shown (stepOf .ch8 (st .busy 0x01C000#24 none [[(.rst [1#8])]])) = some (.idle, 0, []) := by decide
theorem witness_ReadyAtOnce : ∃ t, exec .reset busy7 = .next t ∧ Channel.variant (.ch8 7#3) = .ch8 := ⟨_, rfl, rfl⟩
/-- Program L3-4's stale completion. -/
theorem witness_AbandonedRequest : ∃ t, exec .reset (st .busy 0x01B000#24 none [[(.done 1#1 (.rdata 0x000200#24))]]) = .next t ∧
    t.req = none ∧ ∀ cyc ∈ t.inputs, presentsRequest cyc = false := ⟨_, rfl, rfl, by decide⟩
theorem witness_ResponseDependsOnReplyAlone : busy7.phase = .busy ∧ (0xFE#8).extractLsb' 0 2 = (0x02#8).extractLsb' 0 2 := by decide
theorem witness_OneRead :
    (∀ cyc ∈ ([[], [(.reqCh [7#8])], [(.reqCh [0#8])]] : List Cycle), quiet cyc = true ∧ legalCycle .ch8 cyc = true) ∧
    (st .idle 0 none ([encodeRequest (.ch8 7#3)] :: ([[], [(.reqCh [7#8])], [(.reqCh [0#8])]] ++
      [encodeCompletion (.ok ⟨0#8, 3#8, 0xFF#8⟩)] :: []))).phase = .idle := by decide
theorem witness_runs_without_reset :
    (nextOf (runN .ch8 2 (st .idle 0 none [[(.reqCh [5#8])], [(.done 1#1 (.rdata 0x000123#24))]]))).isSome = true ∧
    ∀ cyc ∈ ([[(.reqCh [5#8])], [(.done 1#1 (.rdata 0x000123#24))]] : List Cycle), presentsReset cyc = false := by decide
/-- A reset after the steps that are run. -/
theorem witness_Alternate_later_reset :
    (nextOf (runN .ch8 1 (st .idle 0 none [[(.reqCh [5#8])], [.rst [1#8]]]))).isSome = true ∧
    ∀ cyc ∈ ([[(.reqCh [5#8])], [.rst [1#8]]] : List Cycle).take 1, presentsReset cyc = false := by decide
theorem witness_BusyBlock_rows :
    (st .busy 0x01F000#24 none [[.reqCh [2#8]]]).fetchRow .ch8 = some (.hold (.ch8 2#3)) ∧
    (st .busy 0x01F000#24 none [[.writeOp [0x01#8, 0x90#8, 0x00#8]]]).fetchRow .ch4 = some .readSe4Ch1 ∧
    (st .busy 0x01F000#24 none [[.readOp [0#8, 2#8, 0xFF#8]]]).fetchRow .ch8 = some (.reply 0 0 2 0xFF) := ⟨rfl, rfl, rfl⟩
/-- Program L3-4's stale completion: the collaborator still owes it after the reset. -/
def stale : State := st .busy 0x01B000#24 none [[.rst [1#8]], [.done 1#1 (.rdata 0x000200#24)]]
theorem test_reset_of_ch4 : (coreOf .ch4).reset = st .idle 0x000000#24 none [] := rfl
theorem witness_VariantIsAParameter_shared : (st .busy 0x01B000#24 none [[.reqCh [3#8]]]).fetch = some (.reqCh [3#8]) ∧
    (3#8).toNat < 4 := by decide
theorem witness_VariantIsAParameter_ch8_only : (st .busy 0x01B000#24 (some [4#8]) [[]]).fetch = some (.reqCh [4#8]) ∧
    4 ≤ (4#8).toNat ∧ (4#8).toNat < 8 ∧ (7#8).toNat < 8 := by decide
theorem witness_VariantIsAParameter_other : stale.fetch = some (.rst [1#8]) ∧ portPriority (.rst [1#8]) ≠ 3 := by decide
theorem witness_NoStateCrossesReads : sameButIdleCommand State.reset (st .idle 0x01F000#24 none []) :=
  ⟨rfl, fun h => nomatch h⟩
/-- A BUSY block, a held request, and a completion for the transaction of each. -/
def live : State :=
  st .busy 0x01C000#24 none [[.reqCh [4#8]], [.done 1#1 (.rdata 0#24)], [], [.done 1#1 (.rdata 0x0003FF#24)]]
theorem witness_BusLiveness : BusLiveness .ch8 (outstanding live) live := fun n u h =>
  match n, h with
  | 0, h => by cases h; decide
  | 1, h => by cases h; decide
  | 2, h => by cases h; decide
  | 3, h => by cases h; decide
  | n + 4, _ => le_of_eq_of_le
      (rest_run (s := { st .idle 0x01C000#24 none [] with outputs := [.rsp (.ok 1023#10)] }) rfl rfl rfl 0 n).1 (Nat.zero_le _)
theorem witness_ReadTerminates : LegalInputs .ch8 live ∧ (∀ cyc ∈ live.inputs, presentsReset cyc = false) ∧
    (nextOf (runN .ch8 3 live)).map (·.phase) = some .busy ∧
    (nextOf (runN .ch8 3 live)).map (·.inputs) = some [[.done 1#1 (.rdata 0x0003FF#24)]] :=
  ⟨⟨by decide, fun _ h => nomatch h⟩, by decide, by decide, by decide⟩
theorem witness_SpuriousCompletions : CollaboratorConforms .ch4 (outstanding stale) stale ∧
    (nextOf (runN .ch4 1 stale)).map (fun u => (presentsCompletion u.cycle, u.phase)) = some (true, .idle) :=
  ⟨fun n u h hc =>
    match n, h with
    | 0, h => by cases h; cases hc
    | 1, _ => by decide
    | n + 2, h => by
      have := (rest_run (s := st .idle 0 none []) rfl rfl rfl 0 n).2 u h
      simp [State.cycle, this.2, presentsCompletion] at hc,
   by decide⟩
theorem witness_IllegalWords_fault : (st .idle 0 none [[(.writeOp [0#8, 0x80#8, 0#8])]]).fetch =
    some (.writeOp [0#8, 0x80#8, 0#8]) ∧
    decode .ch8 .idle (.writeOp [0#8, 0x80#8, 0#8]) = .error (.neverEmittedFrame .wrongStartByte) := ⟨by decide, rfl⟩
theorem witness_IllegalWords_refused : (st .idle 0 none [[(.reqCh [4#8])]]).fetch = some (.reqCh [4#8]) ∧
    decode .ch4 .idle (.reqCh [4#8]) = .error .codeTooWide := ⟨by decide, rfl⟩
theorem witness_BlockInv : BlockInv .ch8 busy7 ∧ ∃ t, stepOf .ch8 busy7 = .next t :=
  ⟨⟨fun _ => ⟨.ch8 7#3, rfl, rfl⟩, .inl rfl⟩, _, rfl⟩
theorem witness_FetchWord : decodeTableWord 24 0x01F000 = some .readSe8Ch7 := by rfl
/-- A system whose block 0 is a CH8 block and whose others are CH4 blocks. -/
def build84 : Build := fun k => if k = 0 then .ch8 else .ch4
theorem witness_Blocks : (0 : Nat) ≠ 1 ∧ (Platform.stepAt build84 [State.reset, busy7] 0)[1]? = some busy7 := ⟨by decide, rfl⟩
theorem witness_Blocks_moves : (Platform.stepAt build84 [State.reset, stale] 1)[1]?.map (·.phase) = some .idle := by decide
/-- Two blocks issue on one bus, both are outstanding at once, and the second begins first (rule R105). -/
def shared : SharedBus :=
  { blocks := [st .idle 0 none [[.reqCh [7#8]]], st .idle 0 none [[.reqCh [3#8]]]], waiting := [], active := none }
theorem test_shared_bus_marks :
    (SharedBus.run build84 [.step 0, .step 1, .start 1, .start 0, .finish (.ok ⟨0#8, 0#8, 1#8⟩), .start 0] shared).2 =
      [.select 1 ⟨0x01#8, 0xB0#8, 0x00#8⟩, .release 1, .select 0 ⟨0x01#8, 0xF0#8, 0x00#8⟩] := by decide
theorem test_shared_bus_both_outstanding :
    (SharedBus.run build84 [.step 0, .step 1] shared).1.blocks.map (·.phase) = [.busy, .busy] := by decide
theorem test_overlap_is_not_serialised :
    serialised none [.select 0 ⟨0x01#8, 0x80#8, 0x00#8⟩, .select 1 ⟨0x01#8, 0x80#8, 0x00#8⟩] = false := by decide
theorem witness_SharedBusTakes : (shared.blocks[1]?.bind (fun s => nextOf (stepOf (build84 1) s))).map (·.outputs) =
    some [.busReq (txnOf ⟨0x01#8, 0xB0#8, 0x00#8⟩)] := by decide
theorem witness_SharedBusTakes_none : (shared.blocks[0]?.bind (fun s => nextOf (stepOf (build84 0) { s with inputs := [] }))).map
    (fun t => txnCount t.outputs) = some 0 := by decide
theorem test_shared_bus_takes : (shared.act build84 (.step 1)).1.waiting = [(1, ⟨0x01#8, 0xB0#8, 0x00#8⟩)] := by decide
/-- R7: the first clock carries a bit out only, the twenty-fifth a bit in only. -/
theorem test_write_then_read_order :
    ((wire .writeThenRead ⟨0x01#8, 0x80#8, 0x00#8⟩ ⟨0x80#8, 0x03#8, 0xFF#8⟩).filter WireEvent.isClock)[0]? = some (.clock (some false) none) ∧
    ((wire .writeThenRead ⟨0x01#8, 0x80#8, 0x00#8⟩ ⟨0x80#8, 0x03#8, 0xFF#8⟩).filter WireEvent.isClock)[24]? =
      some (.clock none (some true)) := by decide

end Sys2Proof.Tests
end

section
/-! PROOFS. The fields of a frame's word byte by byte, the fields of a command frame's byte 1, and the layout of an emitted CMD24
word (rules R46 and R48). -/

namespace Sys2Proof

/-- The fields of `word24` that lie in byte 0 (rule R12). -/
theorem Frame.word24_extractLsb'_byte0 (F : Frame) (k n : Nat) :
    F.word24.extractLsb' (16 + k) n = F.b0.extractLsb' k n := by
  apply BitVec.eq_of_getLsbD_eq
  intro i hi
  simp [Frame.word24_getLsbD, hi, show ¬ 16 + k + i < 8 by omega,
    show ¬ 16 + k + i < 16 by omega, show 16 + k + i - 16 = k + i by omega]

/-- The fields of `word24` that lie in byte 1 (rule R12). -/
theorem Frame.word24_extractLsb'_byte1 (F : Frame) (k n : Nat) (h : k + n ≤ 8) :
    F.word24.extractLsb' (8 + k) n = F.b1.extractLsb' k n := by
  apply BitVec.eq_of_getLsbD_eq
  intro i hi
  simp [Frame.word24_getLsbD, hi, show ¬ 8 + k + i < 8 by omega,
    show 8 + k + i < 16 by omega, show 8 + k + i - 8 = k + i by omega]

/-- The fields of `word24` that lie in byte 2 (rule R12). -/
theorem Frame.word24_extractLsb'_byte2 (F : Frame) (k n : Nat) (h : k + n ≤ 8) :
    F.word24.extractLsb' k n = F.b2.extractLsb' k n := by
  apply BitVec.eq_of_getLsbD_eq
  intro i hi
  simp [Frame.word24_getLsbD, hi, show k + i < 8 by omega]

/-- Every channel code fits the 3-bit CH field (rules R47, R62). -/
theorem Channel.code8_toNat_lt (c : Channel) : c.code8.toNat < 8 := by
  cases c with
  | ch8 c => have := c.isLt; simp [Channel.code8]; omega
  | ch4 c => have := c.isLt; simp [Channel.code8]; omega

/-- The low three bits of a channel code are the whole code (rule R48's zero-extension). -/
theorem Channel.code8_extractLsb'_toNat (c : Channel) : (c.code8.extractLsb' 0 3).toNat = c.code8.toNat := by
  simpa using Nat.mod_eq_of_lt c.code8_toNat_lt

namespace Machine

/-- Byte 1 as rule R71's pseudocode writes it. -/
theorem encodeFrame_b1 (c : Channel) : (encodeFrame c).b1 = (0x08#8 ||| c.code8) <<< 4 :=
  congrArg (fun n : Byte => n <<< 4) (BitVec.or_comm c.code8 0x08#8)

/-- Byte 1 as the SGL flag beside the shifted code (rule R48). -/
theorem encodeFrame_b1_eq_or (c : Channel) : (encodeFrame c).b1 = 0x80#8 ||| (c.code8 <<< 4) :=
  (encodeFrame_b1 c).trans (BitVec.shiftLeft_or_distrib 0x08#8 c.code8 4)

/-- SGL is bit 7 of byte 1 (rule R46): bit 3 of the nibble, set whatever the code. -/
theorem encodeFrame_b1_sgl (c : Channel) : (encodeFrame c).b1.extractLsb' 7 1 = 1#1 := by
  rw [encodeFrame_b1]
  apply BitVec.eq_of_getLsbD_eq
  intro i hi
  interval_cases i
  simp

/-- CH is bits 6:4 of byte 1 (rules R46, R47): the low three bits of the code, untouched by the SGL flag. -/
theorem encodeFrame_b1_channel (c : Channel) : (encodeFrame c).b1.extractLsb' 4 3 = c.code8.extractLsb' 0 3 := by
  rw [encodeFrame_b1]
  apply BitVec.eq_of_getLsbD_eq
  intro i hi
  interval_cases i <;> simp

/-- The low nibble of byte 1 is zero (rule R46): the shift fills it. -/
theorem encodeFrame_b1_lowNibble (c : Channel) : (encodeFrame c).b1.extractLsb' 0 4 = 0#4 := by
  rw [encodeFrame_b1]
  apply BitVec.eq_of_getLsbD_eq
  intro i hi
  simp [hi]

/-- The CH field of the emitted word (rule R46). -/
theorem encodeFrame_word24_channel (c : Channel) :
    (encodeFrame c).word24.extractLsb' 12 3 = c.code8.extractLsb' 0 3 :=
  ((encodeFrame c).word24_extractLsb'_byte1 4 3 (by decide)).trans (encodeFrame_b1_channel c)

/-- Nothing is shifted out of byte 1 (rules R48, R72). -/
theorem startNibble_le (c : Channel) : 0x08#8 ||| c.code8 ≤ 0x0F#8 := by
  have h : (0x08#8 ||| c.code8).toNat < 2 ^ 4 :=
    BitVec.toNat_or .. ▸ Nat.or_lt_two_pow (by decide) (by have := c.code8_toNat_lt; omega)
  exact BitVec.le_def.mpr (Nat.le_of_lt_succ h)

/-- Settles O2: each field lies in one byte of the frame, so it is read off ENCODE's byte.  Only the value of CH and the bound
on the nibble need the code to be below 8. -/
theorem commandFrameFieldLayout : Obligations.CommandFrameFieldLayout := by
  intro c
  have byte0 (k n : Nat) : (encodeFrame c).word24.extractLsb' (16 + k) n = (0x01#8).extractLsb' k n :=
    (encodeFrame c).word24_extractLsb'_byte0 k n
  refine ⟨?zero, ?start, ?sgl, encodeFrame_word24_channel c, ?code, ?low, ?fill, encodeFrame_b1_eq_or c,
    encodeFrame_b1 c, startNibble_le c⟩
  case zero => exact byte0 1 7
  case start => exact byte0 0 1
  case sgl => exact ((encodeFrame c).word24_extractLsb'_byte1 7 1 (by decide)).trans (encodeFrame_b1_sgl c)
  case code => rw [encodeFrame_word24_channel, c.code8_extractLsb'_toNat]
  case low => exact ((encodeFrame c).word24_extractLsb'_byte1 0 4 (by decide)).trans (encodeFrame_b1_lowNibble c)
  case fill => exact (encodeFrame c).word24_extractLsb'_byte2 0 8 (by decide)

end Machine

end Sys2Proof
end

section
/-! PROOFS. The frame codec (spec/41_frame_codec.md): ENCODE's byte 1 as a number, its order and corner cases (rule R71), and
DECODE's masked sum, range and corner cases (rule R73). -/

namespace Sys2Proof

/-- The code of a CH8 channel is its number (rule R62's zero-extension). -/
@[simp] theorem Channel.code8_ch8_toNat (c : BitVec 3) : (Channel.ch8 c).code8.toNat = c.toNat :=
  BitVec.toNat_setWidth_of_le (by decide)

/-- The code of a CH4 channel is its number (rule R62's zero-extension). -/
@[simp] theorem Channel.code8_ch4_toNat (c : BitVec 2) : (Channel.ch4 c).code8.toNat = c.toNat :=
  BitVec.toNat_setWidth_of_le (by decide)

namespace Machine

/-- The SGL flag and the code share no bit, so joining them adds them (rules R46, R71). -/
theorem startNibble_toNat (c : Channel) : (0x08#8 ||| c.code8).toNat = 8 + c.code8.toNat :=
  (BitVec.toNat_or ..).trans (Nat.two_pow_add_eq_or_of_lt (i := 3) c.code8_toNat_lt 1).symm

/-- Byte 1 as a number: the shift loses no bit (rules R71, R72). -/
theorem encodeFrame_b1_toNat (c : Channel) : (encodeFrame c).b1.toNat = (8 + c.code8.toNat) * 16 := by
  have hcode := c.code8_toNat_lt
  rw [encodeFrame_b1, BitVec.toNat_shiftLeft, startNibble_toNat, Nat.shiftLeft_eq]
  omega

/-- Byte 1 grows with the code (rule R71's corner cases). -/
theorem encodeFrame_b1_mono {c d : Channel} (h : c.code8.toNat ≤ d.code8.toNat) :
    (encodeFrame c).b1 ≤ (encodeFrame d).b1 := by
  rw [BitVec.le_def, encodeFrame_b1_toNat, encodeFrame_b1_toNat]
  omega

/-- A CH4 code reaches bits 5:4 of byte 1 only, so bit 6 stays 0 (rule R47). -/
theorem encodeFrame_ch4_b1_bit6 (c : BitVec 2) : (encodeFrame (.ch4 c)).b1.extractLsb' 6 1 = 0#1 := by
  have hcode := c.isLt
  apply BitVec.eq_of_toNat_eq
  rw [BitVec.extractLsb'_toNat, encodeFrame_b1_toNat, Channel.code8_ch4_toNat, Nat.shiftRight_eq_div_pow, BitVec.toNat_ofNat]
  omega

/-- Settles O1: for every channel byte 1 is `(8 + code) * 16`, so it grows with the code, from 0x80 at code 0 to its value at the
variant's last code. -/
theorem encodeBuildsTheCommandFrame : Obligations.EncodeBuildsTheCommandFrame := by
  refine ⟨?frame, ?ch8, ?ch4, ?vectors⟩
  case frame => exact fun c => ⟨rfl, encodeFrame_b1 c, encodeFrame_b1_toNat c, rfl, encodeFrame_b1_lowNibble c⟩
  case ch8 =>
    intro c
    have hfirst : (encodeFrame (.ch8 0#3)).b1 = 0x80#8 := by decide
    exact ⟨hfirst ▸ encodeFrame_b1_mono (by simp), encodeFrame_b1_mono (by have := c.isLt; simp; omega)⟩
  case ch4 =>
    exact fun c => ⟨encodeFrame_b1_mono (by have := c.isLt; simp; omega), encodeFrame_ch4_b1_bit6 c⟩
  case vectors => decide

/-- DECODE by rule R73's formula over the bytes' numbers. -/
theorem decodeFrame_toNat_eq_and (R : Frame) :
    (decodeFrame R).toNat = ((R.b1.toNat * 256) ||| R.b2.toNat) &&& 0x3FF := by
  have hsum : R.b1.toNat * 256 ||| R.b2.toNat = R.b1.toNat * 256 + R.b2.toNat := by
    rw [Nat.mul_comm]; exact (Nat.two_pow_add_eq_or_of_lt (i := 8) R.b2.isLt R.b1.toNat).symm
  have hlow := R.b2.isLt
  calc (decodeFrame R).toNat
    _ = R.b1.toNat % 4 * 256 + R.b2.toNat := decodeFrame_toNat R
    _ = (R.b1.toNat * 256 + R.b2.toNat) % 2 ^ 10 := by omega
    _ = ((R.b1.toNat * 256) ||| R.b2.toNat) &&& 0x3FF := by rw [hsum]; exact (Nat.and_two_pow_sub_one_eq_mod _ 10).symm

/-- Byte 0 never matters (rule R73). -/
theorem decodeFrame_ignores_b0 (x y b1 b2 : Byte) : decodeFrame ⟨x, b1, b2⟩ = decodeFrame ⟨y, b1, b2⟩ :=
  decodeFrame_congr rfl rfl

/-- Settles O5: the formula, the range and the concatenation hold of every reply; a corner case is computed with byte 0 set to 0,
since byte 0 is ignored. -/
theorem decodeExtractsTheSample : Obligations.DecodeExtractsTheSample := by
  refine ⟨?formula, ?ignored, ?corners, ?vector⟩
  case formula =>
    exact fun R => ⟨decodeFrame_toNat_eq_and R, Nat.le_of_lt_succ (decodeFrame R).isLt, decodeFrame_eq_append R⟩
  case ignored => exact fun x y b1 b1' b2 h => decodeFrame_congr h rfl
  case corners =>
    intro x
    simp only [decodeFrame_ignores_b0 x 0#8]
    decide
  case vector => decide

end Machine

end Sys2Proof
end

section
/-! PROOFS. Quiet runs of a BUSY block (rules R82, R84): a step that is presented neither a completion nor a reset leaves it BUSY,
and so does every number of such steps. -/

namespace Sys2Proof.Machine

@[simp] theorem quiet_eq_true_iff {cyc : Cycle} :
    quiet cyc = true ↔ presentsReset cyc = false ∧ presentsCompletion cyc = false := by
  simp [quiet]

/-- The coming cycle is among the next `n + 1`, or nothing is presented in it. -/
theorem cycle_quiet {s : State} {n : Nat} (h : ∀ cyc ∈ s.inputs.take (n + 1), quiet cyc = true) : quiet s.cycle = true := by
  cases hi : s.inputs with
  | nil => simp [State.cycle, hi, presentsReset, presentsCompletion]
  | cons cyc later => simpa [State.cycle, hi] using h cyc (by simp [hi])

/-- The cycles that stay presented after a step. -/
theorem step_inputs_take {v : Variant} {s t : State} (h : stepOf v s = .next t) (n : Nat) :
    t.inputs.take n = (s.inputs.take (n + 1)).tail := by
  rw [step_inputs h]
  cases s.inputs <;> simp

/-- Only a completion or a reset ends a transaction: every other step from BUSY is idle or HOLD (rules R84, R89). -/
theorem step_busy_of_quiet {v : Variant} {s t : State} (h : stepOf v s = .next t) (hb : s.phase = .busy)
    (hq : quiet s.cycle = true) : t.phase = .busy := by
  obtain ⟨hreset, hcompletion⟩ := quiet_eq_true_iff.1 hq
  rcases step_cases h with ⟨_, _, rfl⟩ | ⟨_, c, _, _, _, _, _, _, ⟨hi, _⟩ | ⟨_, rfl⟩⟩ |
    ⟨_, _, _, _, hdone, _⟩ | ⟨_, _, _, hrst, _⟩
  · simpa using hb
  · simp [hb] at hi
  · simpa using hb
  · simp [hcompletion] at hdone
  · simp [hreset] at hrst

theorem runN_busy_of_quiet (v : Variant) : ∀ n s u, runN v n s = .next u → s.phase = .busy →
    (∀ cyc ∈ s.inputs.take n, quiet cyc = true) → u.phase = .busy := by
  apply runN_induction
  case base => exact fun s hb _ => hb
  case next =>
    intro n s t u hs _ ih hb hq
    refine ih (step_busy_of_quiet hs hb (cycle_quiet hq)) fun cyc hm => hq cyc ?_
    rw [step_inputs_take hs n] at hm
    exact List.mem_of_mem_tail hm

/-- Rule R25's `req_ready` while BUSY. -/
theorem reqReady_of_busy {s : State} (h : s.phase = .busy) : s.reqReady = 0#1 := by
  simp [State.reqReady, h]

end Sys2Proof.Machine
end

section
/-! PROOFS. The read channel's ISSUE and COMPLETE_OK (spec/42_read_channel.md, rules R82 and R85). -/

namespace Sys2Proof.Machine

/-- The event of a request row, in either phase (rule R80). -/
@[simp] theorem inputOf_requestRow (ph : Phase) (c : Channel) : inputOf (requestRow ph c) = .req c := by
  cases ph <;> cases c <;> rfl

/-- In IDLE a request's row issues its channel's frame. -/
theorem exec_request_idle {i : Instr} {c : Channel} {s : State} (hi : inputOf i = .req c) (hp : s.phase = .idle) :
    exec i s = .next (s.startTxn (encodeFrame c)) := by
  rw [exec_eq, hi, effect, onRequest_idle hp]

/-- In BUSY it is held. -/
theorem exec_request_busy {i : Instr} {c : Channel} {s : State} (hi : inputOf i = .req c) (hp : s.phase = .busy) :
    exec i s = .next (s.holdRequest c) := by
  rw [exec_eq, hi, effect, onRequest_busy hp]

/-- Settles O14: in IDLE the row is `startTxn` of the channel's frame, whose fields are the claims; the state it leaves is BUSY and
stays so through every quiet run.  In BUSY the row is `holdRequest`. -/
theorem issueStartsItsTransaction : Obligations.IssueStartsItsTransaction := by
  rintro s c i rfl
  have hreq := inputOf_requestRow .idle c
  refine ⟨fun hidle => ?idle, fun hbusy => ?busy⟩
  case idle =>
    exact ⟨s.startTxn (encodeFrame c), exec_request_idle hreq hidle, rfl, rfl, rfl, rfl, rfl, rfl,
      fun v n u hquiet hrun => reqReady_of_busy (runN_busy_of_quiet v n _ u hrun rfl hquiet)⟩
  case busy =>
    refine ⟨by rw [hreq, hbusy]; rfl, fun t ht => ?_⟩
    obtain rfl : s.holdRequest c = t := by simpa [exec_request_busy hreq hbusy] using ht
    exact ⟨hbusy, rfl, rfl, rfl⟩

/-- The mask of byte 1 keeps its data bits (rule R85). -/
theorem decodeFrame_clear_ignored (R : Frame) : decodeFrame ⟨0x00#8, R.b1 &&& 0x03#8, R.b2⟩ = decodeFrame R := by
  refine decodeFrame_congr ?_ rfl
  apply BitVec.eq_of_getLsbD_eq
  intro i hi
  interval_cases i <;> simp

/-- In BUSY a reply is answered with its decoded sample. -/
theorem exec_completeOk_busy {s : State} (hp : s.phase = .busy) (R : Frame) :
    exec (.completeOk R) s = .next (s.respond (.ok (decodeFrame R))) := by
  rw [exec_eq]
  exact congrArg _ (onCompletion_busy hp)

/-- Settles O15: the state is `respond` of the decoded sample, and nothing else of the reply is in it, so two replies of one sample
give one state. -/
theorem completeOkReturnsTheSample : Obligations.CompleteOkReturnsTheSample := by
  intro s R hbusy
  refine ⟨s.respond (.ok (decodeFrame R)), exec_completeOk_busy hbusy R, rfl, rfl, rfl, rfl, rfl, rfl, ?cleared, ?ones, ?zeros⟩
  case cleared => rw [exec_completeOk_busy hbusy, decodeFrame_clear_ignored]
  case ones =>
    rintro rfl
    exact show decodeFrame ⟨0xFF#8, 0xFF#8, 0xFF#8⟩ = 1023#10 by decide
  case zeros =>
    rintro rfl
    exact show decodeFrame ⟨0x00#8, 0x00#8, 0x00#8⟩ = 0#10 by decide

end Sys2Proof.Machine
end

section
/-! PROOFS. A reset leaves the block ready, and the request presented in its next cycle is issued there (spec/70_reset_and_hazards.md,
rules R110 and R112). -/

namespace Sys2Proof.Machine

/-- Rule R25's `req_ready` while IDLE. -/
theorem reqReady_of_idle {s : State} (h : s.phase = .idle) : s.reqReady = 1#1 := by
  simp [State.reqReady, h]

/-- Where a word on the request port is all that is presented in a cycle, the step takes it, whatever request was kept (rule R117). -/
theorem fetch_of_lone_request {s : State} {bs : List Byte} (h : s.cycle = [.reqCh bs]) : s.fetch = some (.reqCh bs) := by
  rw [State.fetch, State.presentedReq, h]
  rfl

/-- In IDLE a request presented alone is its ISSUE (rule R82). -/
theorem step_idle_of_lone_request {s : State} {c : Channel} (hidle : s.phase = .idle) (h : s.cycle = [encodeRequest c]) :
    stepOf c.variant s = .next (s.advance.startTxn (encodeFrame c)) := by
  have hrow : s.fetchRow c.variant = some (requestRow s.phase c) :=
    fetchRow_eq_some (fetch_of_lone_request h) (decode_encodeRequest s.phase c)
  rw [step_of_fetchRow hrow, inputOf_requestRow, effect, onRequest_idle (by simpa using hidle)]

/-- Settles O34: the state after RESET is `resetBlock`, which is IDLE and outputs nothing; a request presented alone to an IDLE block
is its ISSUE, whose state is `startTxn` of the channel's frame. -/
theorem readyAtOnceAfterReset : Obligations.ReadyAtOnceAfterReset := by
  intro s t hreset
  obtain rfl : t = s.resetBlock := exec_next hreset
  refine ⟨reqReady_of_idle (resetBlock_phase s), resetBlock_outputs s, ?_⟩
  rintro v c rest rfl
  exact ⟨_, step_idle_of_lone_request (resetBlock_phase s) rfl, startTxn_outputs .., startTxn_phase ..⟩

end Sys2Proof.Machine
end

section
/-! PROOFS. The codec's inverses (spec/30_encoding.md sections 2 and 3, spec/41_frame_codec.md): a channel is read back from its frame
(rules R47, R72), match and mask pick out the command frames (rule R50), and a reply is its fields (rules R51, R74, R75). -/

namespace Sys2Proof

/-- A variant's channels are told apart by their codes (rule R62). -/
theorem Channel.eq_of_code8_eq {c d : Channel} (hv : c.variant = d.variant) (h : c.code8 = d.code8) : c = d := by
  have hc := decodeChannel_code8 c
  rw [hv, h, decodeChannel_code8 d] at hc
  exact (Except.ok.inj hc).symm

/-- A CH4 channel has the code of the CH8 channel of the same number (rule R62). -/
theorem Channel.code8_ch4 (c : BitVec 2) : (Channel.ch4 c).code8 = (Channel.ch8 (c.zeroExtend 3)).code8 := by
  apply BitVec.eq_of_toNat_eq
  rw [code8_ch4_toNat, code8_ch8_toNat]
  exact (BitVec.toNat_setWidth_of_le (by decide)).symm

theorem Channel.code8_ch8_extractLsb' (c : BitVec 3) : (Channel.ch8 c).code8.extractLsb' 0 3 = c :=
  BitVec.eq_of_toNat_eq ((code8_extractLsb'_toNat _).trans (code8_ch8_toNat c))

/-- The channel whose code stands in a command word's channel field (rules R46, R50). -/
def Channel.ofWord24 (w : Word24) : Variant → Channel
  | .ch8 => .ch8 (w.extractLsb' 12 3)
  | .ch4 => .ch4 (w.extractLsb' 12 2)

@[simp] theorem Channel.variant_ofWord24 (w : Word24) (v : Variant) : (ofWord24 w v).variant = v := by
  cases v <;> rfl

/-- The mask of rule R50 leaves out the channel field only. -/
theorem cmdMask_getLsbD (v : Variant) : ∀ i < 24, ¬ (12 ≤ i ∧ i < 12 + v.chBits) → (cmdMask v).getLsbD i = true := by
  cases v <;> decide

/-- Two words that pass match and mask differ in the channel field at most. -/
theorem eq_of_match {v : Variant} {w w' : Word24} (h : w &&& cmdMask v = cmdMatch v) (h' : w' &&& cmdMask v = cmdMatch v)
    (hch : w.extractLsb' 12 v.chBits = w'.extractLsb' 12 v.chBits) : w = w' := by
  apply BitVec.eq_of_getLsbD_eq
  intro i hi
  by_cases hfield : 12 ≤ i ∧ i < 12 + v.chBits
  · have hbit := congrArg (BitVec.getLsbD · (i - 12)) hch
    simpa [show i - 12 < v.chBits by omega, show 12 + (i - 12) = i by omega] using hbit
  · have hbit := congrArg (BitVec.getLsbD · i) (h.trans h'.symm)
    simpa [cmdMask_getLsbD v i hi hfield] using hbit

theorem FrameGroup.forall_iff {p : FrameGroup → Prop} : (∀ g, p g) ↔
    p .differential ∧ p .wrongStartByte ∧ p .lowNibbleSet ∧ p .fillerNotZero ∧ p .channelOutOfRange :=
  ⟨fun h => ⟨h _, h _, h _, h _, h _⟩, fun ⟨h1, h2, h3, h4, h5⟩ g => by cases g <;> assumption⟩

/-- A word passes match and mask exactly when it lies in no group of rule R56's table: the groups' fields are the bits under the mask. -/
theorem match_iff_no_group (v : Variant) (w : Word24) :
    w &&& cmdMask v = cmdMatch v ↔ ∀ g : FrameGroup, g.holds v w = false := by
  rw [FrameGroup.forall_iff]
  cases v <;>
    simp [FrameGroup.holds, cmdMask, cmdMatch, BitVec.eq_of_getLsbD_eq_iff, Nat.forall_lt_succ_right,
      Nat.le_one_iff_eq_zero_or_eq_one] <;>
    tauto

/-- A reply is its fields (rule R51). -/
theorem replyFrame_fields (R : Frame) :
    replyFrame R.b0 (R.b1.extractLsb' 2 6) (R.b1.extractLsb' 0 2) R.b2 = R := by
  have hb1 : (R.b1.extractLsb' 2 6 ++ R.b1.extractLsb' 0 2 : BitVec 8) = R.b1 :=
    BitVec.extractLsb'_append_extractLsb' (w := 6) (len := 2)
  exact congrArg (Frame.mk R.b0 · R.b2) hb1

theorem replyFrame_b1_null1 (n0 : BitVec 8) (n1 : BitVec 6) (h : BitVec 2) (l : BitVec 8) :
    (replyFrame n0 n1 h l).b1.extractLsb' 2 6 = n1 :=
  BitVec.extractLsb'_append_eq_left (a := n1) (b := h)

theorem replyFrame_b1_dHi (n0 : BitVec 8) (n1 : BitVec 6) (h : BitVec 2) (l : BitVec 8) :
    (replyFrame n0 n1 h l).b1.extractLsb' 0 2 = h :=
  BitVec.extractLsb'_append_eq_right (a := n1) (b := h)

namespace Machine

/-- ENCODE reads the code of a channel and nothing else of it (rule R71). -/
theorem encodeFrame_congr {c d : Channel} (h : c.code8 = d.code8) : encodeFrame c = encodeFrame d := by
  simp only [encodeFrame, h]

/-- Settles O3: byte 1 is `(8 + code) * 16`, which gives the code back, and the code gives the channel. -/
theorem encodeIsInjectiveAndShared : Obligations.EncodeIsInjectiveAndShared := by
  have ch8 (c : BitVec 3) : (encodeFrame (.ch8 c)).b1.extractLsb' 4 3 = c :=
    (encodeFrame_b1_channel _).trans (Channel.code8_ch8_extractLsb' c)
  have shared (c : BitVec 2) : encodeFrame (.ch4 c) = encodeFrame (.ch8 (c.zeroExtend 3)) :=
    encodeFrame_congr (Channel.code8_ch4 c)
  refine ⟨?injective, ch8, fun c => by rw [shared, ch8], shared⟩
  intro c d hv h
  have hb1 := congrArg (fun F : Frame => F.b1.toNat) h
  simp only [encodeFrame_b1_toNat] at hb1
  exact Channel.eq_of_code8_eq hv (BitVec.eq_of_toNat_eq (by omega))

theorem encodeFrame_ch8_field (c : BitVec 3) : (encodeFrame (.ch8 c)).word24.extractLsb' 12 3 = c :=
  (encodeFrame_word24_channel _).trans (Channel.code8_ch8_extractLsb' c)

theorem encodeFrame_ch4_field (c : BitVec 2) : (encodeFrame (.ch4 c)).word24.extractLsb' 12 2 = c := by
  revert c; decide

/-- Every frame the block can emit passes match and mask (rule R50). -/
theorem encodeFrame_match (c : Channel) : (encodeFrame c).word24 &&& cmdMask c.variant = cmdMatch c.variant := by
  cases c with
  | ch8 c => revert c; decide
  | ch4 c => revert c; decide

/-- What passes match and mask is the frame of the channel in its channel field (rule R50). -/
theorem eq_encodeFrame_of_match {v : Variant} {w : Word24} (h : w &&& cmdMask v = cmdMatch v) :
    w = (encodeFrame (Channel.ofWord24 w v)).word24 := by
  refine eq_of_match h (by simpa using encodeFrame_match (Channel.ofWord24 w v)) ?_
  cases v with
  | ch8 => exact (encodeFrame_ch8_field _).symm
  | ch4 => exact (encodeFrame_ch4_field _).symm

/-- Settles O4: a passing word is the frame of the channel in its channel field, and every frame passes. -/
theorem matchAndMaskCharacteriseCommandFrames : Obligations.MatchAndMaskCharacteriseCommandFrames := by
  intro v w
  refine ⟨⟨fun h => ⟨_, Channel.variant_ofWord24 w v, eq_encodeFrame_of_match h⟩, ?emitted⟩, ?field⟩
  case emitted =>
    rintro ⟨c, rfl, rfl⟩
    exact encodeFrame_match c
  case field =>
    rintro c rfl rfl
    cases c with
    | ch8 c => exact encodeFrame_ch8_field c
    | ch4 c => exact encodeFrame_ch4_field c

/-- The sample is the ten low bits of the reply's word (rule R51). -/
theorem decodeFrame_eq_extractLsb' (R : Frame) : decodeFrame R = R.word24.extractLsb' 0 10 := by
  apply BitVec.eq_of_getLsbD_eq
  intro i hi
  rw [decodeFrame_getLsbD]
  simp [Frame.word24_getLsbD, hi, show i < 16 by omega]

theorem decodeFrame_replyFrame (n0 : BitVec 8) (n1 : BitVec 6) (h : BitVec 2) (l : BitVec 8) :
    decodeFrame (replyFrame n0 n1 h l) = (h ++ l : BitVec 10) := by
  rw [decodeFrame_eq_append, replyFrame_b1_dHi]
  rfl

/-- Settles O6: each field of the reply's word lies in one byte, and the sample is the word's ten low bits, which are the two data
fields. -/
theorem replyFieldsMakeTheSample : Obligations.ReplyFieldsMakeTheSample := by
  refine ⟨?fields, ?sample, ?row⟩
  case fields =>
    intro n0 n1 h l
    refine ⟨?_, ?_, ?_, ?_, decodeFrame_replyFrame n0 n1 h l⟩
    · exact (Frame.word24_extractLsb'_byte0 _ 0 8).trans BitVec.extractLsb'_eq_self
    · exact (Frame.word24_extractLsb'_byte1 _ 2 6 (by decide)).trans (replyFrame_b1_null1 n0 n1 h l)
    · exact (Frame.word24_extractLsb'_byte1 _ 0 2 (by decide)).trans (replyFrame_b1_dHi n0 n1 h l)
    · exact (Frame.word24_extractLsb'_byte2 _ 0 8 (by decide)).trans BitVec.extractLsb'_eq_self
  case sample =>
    intro R
    refine ⟨decodeFrame_eq_extractLsb' R, ?_, ?_⟩
    · apply BitVec.eq_of_getLsbD_eq
      intro i hi
      rw [decodeFrame_eq_extractLsb']
      interval_cases i <;> simp
    · apply BitVec.eq_of_getLsbD_eq
      intro i hi
      rw [decodeFrame]
      interval_cases i <;> simp
  case row => exact fun v ph b0 b1 b2 => ⟨_, _, _, _, rfl, replyFrame_fields ⟨b0, b1, b2⟩⟩

/-- Settles O7: DECODE reads two bits of byte 1 and byte 2; as a number it is `(b1 mod 4) * 256 + b2`. -/
theorem decodeMaskingAndRoundTrip : Obligations.DecodeMaskingAndRoundTrip := by
  refine ⟨fun x b1 b2 => decodeFrame_congr ?masked rfl, decodeFrame_ignores_b0, ?arithmetic, ?onto, decodeFrame_toNat⟩
  case masked =>
    apply BitVec.eq_of_getLsbD_eq
    intro i hi
    interval_cases i <;> simp
  case arithmetic =>
    intro x h b2 hlt
    rw [decodeFrame_toNat, Nat.mod_eq_of_lt hlt, Nat.mul_comm]
  case onto =>
    intro s
    have hhigh : ((s.extractLsb' 8 2).zeroExtend 8).extractLsb' 0 2 = s.extractLsb' 8 2 := by
      apply BitVec.eq_of_getLsbD_eq
      intro i hi
      interval_cases i <;> simp
    rw [decodeFrame_eq_append, hhigh]
    exact BitVec.extractLsb'_append_extractLsb' (w := 2) (len := 8)

end Machine

end Sys2Proof
end

section
/-! PROOFS. Decoder and encoder are inverse (spec/30_encoding.md sections 2 to 4): each carrier's accepted words are the words of enabled
rows, and each row's word is read back (rules R45, R49 to R54, R80).  What is rejected of a command word is named by a group that holds
of it (rule R56). -/

namespace Sys2Proof

open Machine

/-! ### What each carrier accepts is the word of an enabled row -/

theorem decodeRst_ok {bs : List Byte} {i : Instr} (h : decodeRst bs = .ok i) : i = .reset ∧ bs = [1#8] := by
  unfold decodeRst at h
  split at h
  case h_1 b =>
    split at h
    case isTrue hb => exact ⟨(Except.ok.inj h).symm, by rw [hb]⟩
    case isFalse => split at h <;> cases h
  case h_2 => cases h

theorem completionRow_enabledIn (ph : Phase) (d : Completion) : (completionRow ph d).enabledIn ph = true := by
  cases ph <;> cases d <;> rfl

theorem encode_completionRow (ph : Phase) (d : Completion) : encode (completionRow ph d) = encodeCompletion d := by
  cases ph <;> cases d <;> rfl

theorem decodeDone_ok {ph : Phase} {ok : BitVec 1} {p : Payload} {i : Instr} (h : decodeDone ph ok p = .ok i) :
    i.enabledIn ph = true ∧ encode i = .done ok p := by
  unfold decodeDone at h
  split at h
  case h_1 d hd =>
    cases h
    exact ⟨completionRow_enabledIn ph d, (encode_completionRow ph d).trans (decodeCompletion_ok hd)⟩
  case h_2 => cases h

theorem frameOfBytes_eq_some {bs : List Byte} {F : Frame} (h : frameOfBytes bs = some F) : bs = F.toBytes := by
  unfold frameOfBytes at h
  split at h <;> cases h
  rfl

@[simp] theorem frameOfBytes_toBytes (F : Frame) : frameOfBytes F.toBytes = some F := rfl

theorem decodeReply_ok {ph : Phase} {bs : List Byte} {i : Instr} (h : decodeReply bs = .ok i) :
    i.enabledIn ph = true ∧ encode i = .readOp bs := by
  unfold decodeReply at h
  split at h
  case h_1 => cases h
  case h_2 R hR =>
    cases h
    exact ⟨rfl, by rw [encode, replyFrame_fields, frameOfBytes_eq_some hR]⟩

theorem requestRow_enabledIn (ph : Phase) (c : Channel) : (requestRow ph c).enabledIn ph = true := by
  cases ph <;> cases c <;> rfl

theorem encode_requestRow (ph : Phase) (c : Channel) : encode (requestRow ph c) = .reqCh [c.code8] := by
  cases ph <;> cases c <;> rfl

theorem decodeRequest_ok {v : Variant} {ph : Phase} {bs : List Byte} {i : Instr} (h : decodeRequest v ph bs = .ok i) :
    ∃ c, c.variant = v ∧ bs = [c.code8] ∧ i = requestRow ph c := by
  unfold decodeRequest at h
  split at h
  case h_1 b =>
    split at h
    case h_1 c hc =>
      obtain ⟨hv, rfl⟩ := decodeChannel_ok hc
      exact ⟨c, hv, rfl, (Except.ok.inj h).symm⟩
    case h_2 => cases h
  case h_2 => cases h

theorem decodeCommand_ok {row : Frame → Option Instr} {v : Variant} {bs : List Byte} {i : Instr}
    (h : decodeCommand row v bs = .ok i) : ∃ F, bs = F.toBytes ∧ row F = some i := by
  unfold decodeCommand at h
  split at h
  case h_1 => cases h
  case h_2 F hF =>
    split at h
    case h_1 j hj =>
      cases h
      exact ⟨F, frameOfBytes_eq_some hF, hj⟩
    case h_2 => cases h

/-- The pattern row of a frame (rule R50). -/
def patternRow : Channel → Instr
  | .ch8 c => .readSe8 c
  | .ch4 c => .readSe4 c

theorem inputOf_patternRow (c : Channel) : inputOf (patternRow c) = .req c := by
  cases c <;> rfl

theorem encode_patternRow (c : Channel) : encode (patternRow c) = .busWdata (encodeFrame c).toBytes := by
  cases c with
  | ch8 c => rw [← cmdFrame8_eq_encodeFrame]; rfl
  | ch4 c => rw [← cmdFrame4_eq_encodeFrame]; rfl

theorem decodePattern_of_match {v : Variant} {w : Word24} (h : w &&& cmdMask v = cmdMatch v) :
    decodePattern v w = some (patternRow (Channel.ofWord24 w v)) := by
  unfold decodePattern
  rw [if_pos h]
  cases v <;> rfl

theorem decodePattern_of_not_match {v : Variant} {w : Word24} (h : w &&& cmdMask v ≠ cmdMatch v) : decodePattern v w = none :=
  if_neg h

theorem frame_eq_encodeFrame_of_match {v : Variant} {F : Frame} (h : F.word24 &&& cmdMask v = cmdMatch v) :
    F = encodeFrame (Channel.ofWord24 F.word24 v) :=
  Frame.word24_inj (eq_encodeFrame_of_match h)

theorem decodePattern_ok {v : Variant} {F : Frame} {i : Instr} (h : decodePattern v F.word24 = some i) :
    ∃ c, i = patternRow c ∧ F = encodeFrame c := by
  by_cases hm : F.word24 &&& cmdMask v = cmdMatch v
  · rw [decodePattern_of_match hm] at h
    exact ⟨_, (Option.some.inj h).symm, frame_eq_encodeFrame_of_match hm⟩
  · rw [decodePattern_of_not_match hm] at h
    cases h

/-- The map of frames (rule R49) lists passing frames with rows that no phase disables and whose words they are. -/
theorem frameMap_rows (v : Variant) : ∀ row ∈ frameMap v,
    row.1.word24 &&& cmdMask v = cmdMatch v ∧ row.2.guardPhase = none ∧ encode row.2 = .writeOp row.1.toBytes := by
  cases v <;> decide

theorem decodeConcrete_ok {v : Variant} {F : Frame} {i : Instr} (h : decodeConcrete v F = some i) : (F, i) ∈ frameMap v := by
  obtain ⟨⟨G, j⟩, hfind, rfl⟩ := Option.map_eq_some_iff.1 h
  have hG : G = F := by simpa using List.find?_some hfind
  exact hG ▸ List.mem_of_find?_eq_some hfind

theorem Instr.enabledIn_of_guardPhase_none {i : Instr} (h : i.guardPhase = none) (ph : Phase) : i.enabledIn ph = true := by
  rw [enabledIn, h]

/-- Settles O10: by the word's carrier. -/
theorem decodeAcceptsOnlyEnabledRowsWords : Obligations.DecodeAcceptsOnlyEnabledRowsWords := by
  intro v ph w i h
  refine ⟨(decode_ok h).1, ?_⟩
  cases w with
  | rst bs =>
    obtain ⟨rfl, rfl⟩ := decodeRst_ok h
    exact ⟨rfl, rfl⟩
  | done ok p => exact decodeDone_ok h
  | readOp bs => exact decodeReply_ok h
  | reqCh bs =>
    obtain ⟨c, _, rfl, rfl⟩ := decodeRequest_ok h
    exact ⟨requestRow_enabledIn ph c, encode_requestRow ph c⟩
  | busWdata bs =>
    obtain ⟨F, rfl, hrow⟩ := decodeCommand_ok h
    obtain ⟨c, rfl, rfl⟩ := decodePattern_ok hrow
    exact ⟨by cases c <;> rfl, encode_patternRow c⟩
  | writeOp bs =>
    obtain ⟨F, rfl, hrow⟩ := decodeCommand_ok h
    obtain ⟨_, hguard, hword⟩ := frameMap_rows v _ (decodeConcrete_ok hrow)
    exact ⟨Instr.enabledIn_of_guardPhase_none hguard ph, hword⟩

/-! ### Each row's word is read back -/

theorem decodeCommand_of_row {row : Frame → Option Instr} {F : Frame} {i : Instr} (h : row F = some i) (v : Variant) :
    decodeCommand row v F.toBytes = .ok i := by
  simp only [decodeCommand, frameOfBytes_toBytes, h]

theorem decode_encode_patternRow (ph : Phase) (c : Channel) : decode c.variant ph (encode (patternRow c)) = .ok (patternRow c) := by
  have hrow : decodePattern c.variant (encodeFrame c).word24 = some (patternRow c) := by
    rw [decodePattern_of_match (encodeFrame_match c)]
    cases c with
    | ch8 c => exact congrArg (some ∘ Instr.readSe8) (encodeFrame_ch8_field c)
    | ch4 c => exact congrArg (some ∘ Instr.readSe4) (encodeFrame_ch4_field c)
  rw [encode_patternRow]
  exact decodeCommand_of_row (row := fun F => decodePattern c.variant F.word24) hrow c.variant

theorem decode_encode_reply (v : Variant) (ph : Phase) (n0 : BitVec 8) (n1 : BitVec 6) (h : BitVec 2) (l : BitVec 8) :
    decode v ph (encode (.reply n0 n1 h l)) = .ok (.reply n0 n1 h l) := by
  show Except.ok (Instr.reply n0 ((replyFrame n0 n1 h l).b1.extractLsb' 2 6) ((replyFrame n0 n1 h l).b1.extractLsb' 0 2) l) = _
  rw [replyFrame_b1_null1, replyFrame_b1_dHi]

theorem variant_eq_of_wellFormed {v u : Variant} {i : Instr} (hi : i.variant = some u) (h : wellFormed v i = true) : v = u := by
  simp only [wellFormed, hi, beq_iff_eq] at h
  exact h.symm

theorem phase_eq_of_enabledIn {ph g : Phase} {i : Instr} (hi : i.guardPhase = some g) (h : i.enabledIn ph = true) : ph = g := by
  simp only [Instr.enabledIn, hi, beq_iff_eq] at h
  exact h.symm

/-- Settles O9: by the row.  A row of one variant fixes the block, and a guarded row the phase; what its carrier then reads is a request, a
completion, a reply or a frame. -/
theorem decodeInvertsEncode : Obligations.DecodeInvertsEncode := by
  intro v ph i hv hph
  cases i with
  | readSe8 c =>
    obtain rfl := variant_eq_of_wellFormed rfl hv
    exact decode_encode_patternRow ph (.ch8 c)
  | readSe4 c =>
    obtain rfl := variant_eq_of_wellFormed rfl hv
    exact decode_encode_patternRow ph (.ch4 c)
  | readSe8Ch0 | readSe8Ch1 | readSe8Ch2 | readSe8Ch3 | readSe8Ch4 | readSe8Ch5 | readSe8Ch6 | readSe8Ch7
  | readSe4Ch0 | readSe4Ch1 | readSe4Ch2 | readSe4Ch3 =>
    obtain rfl := variant_eq_of_wellFormed rfl hv
    rfl
  | reply n0 n1 h l => exact decode_encode_reply v ph n0 n1 h l
  | issueCh8 c =>
    obtain rfl := variant_eq_of_wellFormed rfl hv
    obtain rfl := phase_eq_of_enabledIn rfl hph
    exact decode_encodeRequest .idle (.ch8 c)
  | issueCh4 c =>
    obtain rfl := variant_eq_of_wellFormed rfl hv
    obtain rfl := phase_eq_of_enabledIn rfl hph
    exact decode_encodeRequest .idle (.ch4 c)
  | hold c =>
    obtain rfl := variant_eq_of_wellFormed rfl hv
    obtain rfl := phase_eq_of_enabledIn rfl hph
    exact decode_encodeRequest .busy c
  | completeOk R =>
    obtain rfl := phase_eq_of_enabledIn rfl hph
    exact decode_encodeCompletion v .busy (.ok R)
  | completeFault f =>
    obtain rfl := phase_eq_of_enabledIn rfl hph
    exact decode_encodeCompletion v .busy (.fault f)
  | ignoreDone d =>
    obtain rfl := phase_eq_of_enabledIn rfl hph
    exact decode_encodeCompletion v .idle d
  | reset => rfl

/-! ### Command words outside match and mask -/

/-- The group that names a rejected word holds of it (rule R56). -/
theorem neverEmitted_holds {v : Variant} {w : Word24} (h : w &&& cmdMask v ≠ cmdMatch v) : (neverEmitted v w).holds v w = true := by
  unfold neverEmitted
  split_ifs with hdiff hstart hlow hfill
  · exact hdiff
  · exact hstart
  · exact hlow
  · exact hfill
  · rw [Ne, match_iff_no_group, FrameGroup.forall_iff] at h
    simpa [hdiff, hstart, hlow, hfill] using h

theorem decodeConcrete_of_not_match {v : Variant} {F : Frame} (h : F.word24 &&& cmdMask v ≠ cmdMatch v) :
    decodeConcrete v F = none :=
  Option.eq_none_iff_forall_ne_some.2 fun _ hi => h (frameMap_rows v _ (decodeConcrete_ok hi)).1

/-- Every channel's frame is in the map, with a row that stands for the channel's request (rule R49). -/
theorem decodeConcrete_encodeFrame (c : Channel) :
    (decodeConcrete c.variant (encodeFrame c)).map inputOf = some (.req c) := by
  cases c with
  | ch8 c => revert c; decide
  | ch4 c => revert c; decide

theorem decodeCommand_of_none {row : Frame → Option Instr} {F : Frame} (h : row F = none) (v : Variant) :
    decodeCommand row v F.toBytes = .error (.neverEmittedFrame (neverEmitted v F.word24)) := by
  simp only [decodeCommand, frameOfBytes_toBytes, h]

/-- Settles O11: both carriers reject exactly what fails match and mask, by the first group that holds; what passes is a channel's frame. -/
theorem neverEmittedWordsAreRejectedByGroup : Obligations.NeverEmittedWordsAreRejectedByGroup := by
  intro v ph F
  refine ⟨fun hfail => ?rejected, fun hpass => ⟨(match_iff_no_group v F.word24).1 hpass, ?accepted⟩⟩
  case rejected =>
    exact ⟨neverEmitted v F.word24, neverEmitted_holds hfail,
      decodeCommand_of_none (row := fun F => decodePattern v F.word24) (decodePattern_of_not_match hfail) v,
      decodeCommand_of_none (decodeConcrete_of_not_match hfail) v⟩
  case accepted =>
    obtain ⟨c, hv, hF⟩ : ∃ c : Channel, c.variant = v ∧ F = encodeFrame c :=
      ⟨_, Channel.variant_ofWord24 F.word24 v, frame_eq_encodeFrame_of_match hpass⟩
    subst hv hF
    obtain ⟨j, hj, hreq⟩ := Option.map_eq_some_iff.1 (decodeConcrete_encodeFrame c)
    exact ⟨c, patternRow c, j, rfl, rfl, encode_patternRow c ▸ decode_encode_patternRow ph c, inputOf_patternRow c,
      decodeCommand_of_row hj c.variant, hreq⟩

/-! ### Words written out, and the fields of the port words -/

/-- Settles O8: each word is read by computation. -/
theorem writtenWordsDecode : Obligations.WrittenWordsDecode :=
  ⟨rfl, rfl, rfl, rfl, rfl, rfl, rfl, rfl, rfl, rfl, fun _ => rfl, rfl, rfl⟩

theorem Channel.code8_toNat_lt_nch (c : Channel) : c.code8.toNat < c.variant.nch := by
  cases c with
  | ch8 c => rw [code8_ch8_toNat]; exact c.isLt
  | ch4 c => rw [code8_ch4_toNat]; exact c.isLt

theorem Variant.nch_eq_two_pow (v : Variant) : v.nch = 2 ^ v.chBits := by
  cases v <;> rfl

theorem doneOkWord_busOk (R : Frame) : (doneOkWord R).extractLsb' 24 1 = 1#1 := BitVec.extractLsb'_append_eq_left

theorem doneOkWord_rdata (R : Frame) : (doneOkWord R).extractLsb' 0 24 = R.word24 := BitVec.extractLsb'_append_eq_right

theorem doneFaultWord_busOk (f : FaultT) : (doneFaultWord f).extractLsb' Config.faultW 1 = 0#1 := BitVec.extractLsb'_append_eq_left

theorem doneFaultWord_fault (f : FaultT) : (doneFaultWord f).extractLsb' 0 Config.faultW = f := BitVec.extractLsb'_append_eq_right

theorem respWord_isFault (r : Response) : (respWord r).extractLsb' (10 + Config.faultW) 1 = r.isFault := by
  rw [respWord, BitVec.extractLsb'_append_eq_of_le (by omega), Nat.add_sub_cancel]
  exact BitVec.extractLsb'_append_eq_left

theorem respWord_sample (r : Response) : (respWord r).extractLsb' Config.faultW 10 = r.sample := by
  rw [respWord, BitVec.extractLsb'_append_eq_of_le (Nat.le_refl _), Nat.sub_self]
  exact BitVec.extractLsb'_append_eq_right

/-- Settles O12: each word is a concatenation, and a field of it is read off at its place. -/
theorem portWordFields : Obligations.PortWordFields := by
  refine ⟨fun R => ⟨doneOkWord_busOk R, doneOkWord_rdata R⟩, fun f => ⟨doneFaultWord_busOk f, doneFaultWord_fault f⟩,
    fun R => ?ok, fun f => ?fault,
    fun r => ⟨respWord_isFault r, respWord_sample r, BitVec.extractLsb'_append_eq_right⟩,
    fun s => ⟨rfl, rfl, rfl⟩, fun f => ⟨rfl, rfl, rfl⟩,
    fun c => ⟨rfl, c.code8_toNat_lt_nch, c.variant.nch_eq_two_pow⟩⟩
  case ok => rw [doneOkWord_busOk, doneOkWord_rdata]; rfl
  case fault => rw [doneFaultWord_busOk, doneFaultWord_fault]; rfl

end Sys2Proof
end

section
/-! PROOFS. One row run by itself (spec/42_read_channel.md, spec/10_state.md section 2): what it leaves by its event and the phase. -/

namespace Sys2Proof.Machine

/-! ### A row by its event -/

/-- In BUSY a completion's row answers with the completion's response. -/
theorem exec_completion_busy {i : Instr} {d : Completion} {s : State} (hi : inputOf i = .done d) (hp : s.phase = .busy) :
    exec i s = .next (s.respond (answerOf d)) := by
  rw [exec_eq, hi, effect, onCompletion_busy hp]

/-- In IDLE it is ignored. -/
theorem exec_completion_idle {i : Instr} {d : Completion} {s : State} (hi : inputOf i = .done d) (hp : s.phase = .idle) :
    exec i s = .next s.ignoreDone := by
  rw [exec_eq, hi, effect, onCompletion_idle hp]

/-- Settles O25: by the event of the row and the phase, each being one shared operation. -/
theorem everyRowsFrame : Obligations.EveryRowsFrame := by
  intro i s t h
  obtain rfl := exec_next h
  refine ⟨effect_inputs _ s, ?_⟩
  cases hi : inputOf i with
  | req c =>
    cases hp : s.phase with
    | idle => simp [stepKind, effect, onRequest_idle hp]
    | busy => simp [stepKind, effect, onRequest_busy hp, hp]
  | done d =>
    cases hp : s.phase with
    | idle => simp [stepKind, effect, onCompletion_idle hp, hp]
    | busy => cases d <;> simp [stepKind, effect, onCompletion_busy hp]
  | rst => cases s.phase <;> simp [stepKind, effect]

/-! ### Requests -/

/-- Settles O17: in BUSY the row is `holdRequest`. -/
theorem holdKeepsTheBlockAndTheRequest : Obligations.HoldKeepsTheBlockAndTheRequest :=
  fun s c hbusy => ⟨exec_request_busy (i := .hold c) rfl hbusy, reqReady_of_busy (s := s.holdRequest c) hbusy⟩

/-- Settles O22: in BUSY every request's row is `holdRequest`. -/
theorem frameRowsAreHeldWhileBusy : Obligations.FrameRowsAreHeldWhileBusy :=
  fun _ _ _ hbusy hreq => exec_request_busy hreq hbusy

/-- A row that stands for a request whose frame is `row.2.1` issues it in IDLE. -/
theorem exec_frameRow_idle {row : Instr × Frame × Word24} {c : Channel} {s : State} (hidle : s.phase = .idle)
    (hreq : inputOf row.1 = .req c) (hframe : encodeFrame c = row.2.1) (hword : row.2.1.word24 = row.2.2) :
    ∃ t, exec row.1 s = .next t ∧ t.phase = .busy ∧ t.cmdReg = row.2.2 ∧
      t.outputs = [.busReq [.write row.2.1, .read 3]] ∧ t.inputs = s.inputs := by
  refine ⟨s.startTxn (encodeFrame c), exec_request_idle hreq hidle, rfl, ?_, ?_, rfl⟩
  · rw [startTxn_cmdReg, hframe, hword]
  · rw [startTxn_outputs, hframe, txnOf]

/-- Settles O20: each row stands for a request, and its frame is ENCODE of that request's channel. -/
theorem ch8FrameRowsIssueTheirFrame : Obligations.Ch8FrameRowsIssueTheirFrame := by
  intro s hidle
  constructor
  · intro c
    rw [cmdFrame8_eq_encodeFrame]
    exact ⟨s.startTxn (encodeFrame (.ch8 c)), exec_request_idle rfl hidle, exec_request_idle rfl hidle, rfl, rfl, rfl, rfl⟩
  · intro row hrow
    simp only [List.mem_cons, List.not_mem_nil, or_false] at hrow
    rcases hrow with rfl | rfl | rfl | rfl | rfl | rfl | rfl | rfl <;> exact exec_frameRow_idle hidle rfl rfl rfl

/-- Settles O21: as on the CH8 block. -/
theorem ch4FrameRowsIssueTheirFrame : Obligations.Ch4FrameRowsIssueTheirFrame := by
  intro s hidle
  constructor
  · intro c
    rw [cmdFrame4_eq_encodeFrame]
    exact ⟨s.startTxn (encodeFrame (.ch4 c)), exec_request_idle rfl hidle, exec_request_idle rfl hidle, rfl, rfl, rfl, rfl⟩
  · intro row hrow
    simp only [List.mem_cons, List.not_mem_nil, or_false] at hrow
    rcases hrow with rfl | rfl | rfl | rfl <;> exact exec_frameRow_idle hidle rfl rfl rfl

/-! ### Completions and RESET -/

/-- Settles O18: in IDLE the row is `ignoreDone`. -/
theorem ignoreDoneChangesNothing : Obligations.IgnoreDoneChangesNothing :=
  fun _ d hidle => exec_completion_idle (i := .ignoreDone d) rfl hidle

/-- Settles O19: the row is `resetBlock` in either phase. -/
theorem resetCompletesInEveryState : Obligations.ResetCompletesInEveryState := exec_eq .reset

/-- Settles O23: the reply is the completion that carries its frame, whose sample is the two data fields. -/
theorem replyRowReturnsItsDataBits : Obligations.ReplyRowReturnsItsDataBits := by
  refine fun s n0 n1 h l => ⟨fun hbusy => ?_, fun hidle => exec_completion_idle (i := .reply n0 n1 h l) rfl hidle⟩
  rw [exec_completion_busy (i := .reply n0 n1 h l) rfl hbusy, answerOf, decodeFrame_replyFrame]
  rfl

/-- Settles O36: both answer `respond` of the sample, and one sample is decoded from both replies. -/
theorem responseDependsOnReplyAlone : Obligations.ResponseDependsOnReplyAlone := by
  intro s t s' t' R R' hs ht hhigh hlow hs' ht'
  obtain rfl : s.respond (.ok (decodeFrame R)) = s' := by simpa [exec_completeOk_busy hs] using hs'
  obtain rfl : t.respond (.ok (decodeFrame R')) = t' := by simpa [exec_completeOk_busy ht] using ht'
  rw [respond_outputs, respond_outputs, decodeFrame_congr hhigh hlow]

/-- Settles O44: each value is a field or a signal of one written-out state. -/
theorem resetValues : Obligations.ResetValues := ⟨rfl, rfl, rfl, rfl, rfl, rfl, rfl, rfl, rfl, rfl⟩

end Sys2Proof.Machine
end

section
/-! PROOFS. One step (spec/42_read_channel.md rules R80 and R93, spec/60_exceptions.md section 2): the word it takes, the row it runs, what it
leaves, and what it stops on. -/

namespace Sys2Proof.Machine

/-! ### The row a step runs, and its stops -/

theorem step_of_decode {v : Variant} {s : State} {w : PortWord} {i : Instr} (hw : s.fetch = some w)
    (hd : decode v s.phase w = .ok i) : stepOf v s = exec i s.advance := by
  simp only [stepOf, hw, hd]

theorem step_of_reject {v : Variant} {s : State} {w : PortWord} {e : Reject} (hw : s.fetch = some w)
    (hd : decode v s.phase w = .error e) : stepOf v s = stopOf e := by
  simp only [stepOf, hw, hd]

theorem step_of_fetch_none {s : State} (h : s.fetch = none) (v : Variant) : stepOf v s = .next s.advance := by
  simp only [stepOf, h]

/-- Settles O13: by the definition of a step and of the state it starts from. -/
theorem stepRunsTheDecodedRow : Obligations.StepRunsTheDecodedRow :=
  fun _ => ⟨rfl, fun v h => step_of_fetch_none h v, fun _ _ _ hw hd => step_of_decode hw hd, rfl, rfl, rfl, rfl, rfl⟩

/-- Settles O43: a step on a rejected word is `stopOf` of the rejection. -/
theorem illegalWordsStopByName : Obligations.IllegalWordsStopByName := by
  intro v s w e hw hd
  rw [step_of_reject hw hd]
  refine ⟨fun g hg => by rw [hg]; rfl, fun hne => ?_⟩
  cases e with
  | neverEmittedFrame g => exact absurd rfl (hne g)
  | badLength | strayBits | rstLow | codeTooWide => rfl

/-- Settles O24: a row runs as the effect of its event, and the decoder gives enabled rows of the block's variant only. -/
theorem exactlyTheRowsOfTheVariantRun : Obligations.ExactlyTheRowsOfTheVariantRun := by
  refine ⟨fun i s => ⟨effect (inputOf i) s, exec_eq i s, ?request, ?completion⟩, ?rows⟩
  case request =>
    intro hidle c hi
    rw [hi, effect, onRequest_idle hidle]
    exact ⟨rfl, rfl⟩
  case completion =>
    intro hbusy d hi
    rw [hi, effect, onCompletion_busy hbusy]
    exact ⟨rfl, rfl⟩
  case rows =>
    intro v s t hsome h
    rcases step_next h with ⟨hnone, _⟩ | ⟨w, i, hw, hd, rfl⟩
    · exact absurd hnone hsome
    · obtain ⟨hwf, hen, _⟩ := decodeAcceptsOnlyEnabledRowsWords v s.phase w i hd
      exact ⟨i, fetchRow_eq_some hw hd, exec_eq i s.advance, hwf, hen⟩

/-! ### What a step does, by name -/

theorem no_reset_of_fetch_none {s : State} (h : s.fetch = none) : presentsReset s.cycle = false := (fetch_none h).1

theorem no_completion_of_fetch_none {s : State} (h : s.fetch = none) : presentsCompletion s.cycle = false := (fetch_none h).2.1

/-- The steps of rule R80 and the idle step, as steps of a block of variant `v` from `s`: what each takes and where it ends. -/
inductive StepTo (v : Variant) (s : State) : State → Prop where
  | nothing (hrow : s.fetchRow v = none) (hfetch : s.fetch = none) : StepTo v s s.advance
  | issue {i : Instr} {c : Channel} (hidle : s.phase = .idle) (hrow : s.fetchRow v = some i) (hreq : inputOf i = .req c)
      (hv : c.variant = v) (hreset : presentsReset s.cycle = false) (hdone : presentsCompletion s.cycle = false)
      (hport : presentsRequest s.cycle = true ∨ ∃ bs, s.req = some bs) : StepTo v s (s.advance.startTxn (encodeFrame c))
  | hold {i : Instr} {c : Channel} (hbusy : s.phase = .busy) (hrow : s.fetchRow v = some i) (hreq : inputOf i = .req c)
      (hv : c.variant = v) (hreset : presentsReset s.cycle = false) (hdone : presentsCompletion s.cycle = false) :
      StepTo v s (s.advance.holdRequest c)
  | respond {i : Instr} {d : Completion} (hbusy : s.phase = .busy) (hrow : s.fetchRow v = some i) (hdone : inputOf i = .done d)
      (hpresented : presentsCompletion s.cycle = true) (hreset : presentsReset s.cycle = false) :
      StepTo v s (s.advance.respond (answerOf d))
  | ignore {i : Instr} {d : Completion} (hidle : s.phase = .idle) (hrow : s.fetchRow v = some i) (hdone : inputOf i = .done d)
      (hpresented : presentsCompletion s.cycle = true) (hreset : presentsReset s.cycle = false) : StepTo v s s.advance.ignoreDone
  | reset {i : Instr} (hrow : s.fetchRow v = some i) (hrst : inputOf i = .rst) (hpresented : presentsReset s.cycle = true) :
      StepTo v s s.advance.resetBlock

/-- `step_cases` with its cases named. -/
theorem stepTo_of_step {v : Variant} {s t : State} (h : stepOf v s = .next t) : StepTo v s t := by
  rcases step_cases h with ⟨hrow, hfetch, rfl⟩ | ⟨i, c, hrow, hreq, hv, hreset, hdone, hport, ⟨hp, rfl⟩ | ⟨hp, rfl⟩⟩ |
    ⟨i, d, hrow, hdone, hpresented, hreset, ⟨hp, rfl⟩ | ⟨hp, rfl⟩⟩ | ⟨i, hrow, hrst, hpresented, rfl⟩
  · exact .nothing hrow hfetch
  · exact .issue hp hrow hreq hv hreset hdone hport
  · exact .hold hp hrow hreq hv hreset hdone
  · exact .respond hp hrow hdone hpresented hreset
  · exact .ignore hp hrow hdone hpresented hreset
  · exact .reset hrow hrst hpresented

/-! ### The Lean reading and the invariant -/

/-- An event does to the block, and outputs, what the Lean reading says; where that is not enabled it is a HOLD (rule R93). -/
theorem effect_refines (e : Input) (s : State) :
    match blockStep s.block e with
    | some (b, out) => (effect e s).block = b ∧ (effect e s).outputs = out
    | none => stepKind s.phase e = .hold ∧ (effect e s).block = s.block ∧ (effect e s).outputs = [] := by
  cases e with
  | req c =>
    cases hp : s.phase with
    | idle => simp [State.block, blockStep, effect, onRequest_idle hp, hp, txnOf]
    | busy => simp [State.block, blockStep, effect, onRequest_busy hp, hp, stepKind]
  | done d =>
    cases hp : s.phase with
    | idle => simp [State.block, blockStep, effect, onCompletion_idle hp, hp]
    | busy => cases d <;> simp [State.block, blockStep, effect, onCompletion_busy hp, hp, answerOf]
  | rst => exact ⟨rfl, rfl⟩

/-- Settles O26: a step is idle or the effect of the row it takes, on the block that the cycle leaves as it is. -/
theorem machineRefinesTheLeanReading : Obligations.MachineRefinesTheLeanReading := by
  intro v s t h
  rcases step_next_row h with ⟨hrow, _, rfl⟩ | ⟨i, hrow, rfl⟩ <;> rw [hrow]
  · exact ⟨rfl, rfl⟩
  · exact effect_refines (inputOf i) s.advance

/-- Settles O46: by what a step can do.  Only ISSUE leaves another frame in BUSY, and it is that of a channel of the block. -/
theorem everyStepKeepsTheInvariant : Obligations.EveryStepKeepsTheInvariant := by
  rintro v s t ⟨hcmd, _⟩ h
  cases stepTo_of_step h with
  | nothing => exact ⟨hcmd, .inl rfl⟩
  | @issue i c hidle hrow hreq hv => exact ⟨fun _ => ⟨c, hv, rfl⟩, .inr (.inl ⟨_, rfl, rfl, rfl⟩)⟩
  | hold => exact ⟨hcmd, .inl rfl⟩
  | respond => exact ⟨nofun, .inr (.inr ⟨_, rfl, rfl⟩)⟩
  | ignore hidle => exact ⟨fun hbusy => absurd (hidle.symm.trans hbusy) nofun, .inl rfl⟩
  | reset => exact ⟨nofun, .inl rfl⟩

/-- Settles O45: after reset PHASE is IDLE and nothing is presented. -/
theorem resetMeetsTheInvariant : Obligations.ResetMeetsTheInvariant :=
  fun _ => ⟨⟨nofun, .inl rfl⟩, nofun, nofun⟩

/-! ### Simultaneous events (rule R99) -/

theorem portPriority_of_hasPriority {k : Nat} {w : PortWord} (h : hasPriority k w = true) : portPriority w = k := by
  simp only [hasPriority, Bool.and_eq_true, beq_iff_eq] at h
  exact h.1

theorem hasPriority_of_isDone {w : PortWord} (h : isDone w = true) : hasPriority 2 w = true := by
  cases w with
  | done => rfl
  | rst | readOp | reqCh | busWdata | writeOp => cases h

theorem fetch_of_reset {s : State} {w : PortWord} (h : s.cycle.find? (hasPriority 1) = some w) : s.fetch = some w := by
  simp [State.fetch, h]

theorem fetch_of_done {s : State} {w : PortWord} (hreset : s.cycle.find? (hasPriority 1) = none)
    (h : s.cycle.find? isDone = some w) : s.fetch = some w := by
  simp [State.fetch, hreset, h]

theorem find?_isDone_eq_none {cyc : Cycle} (h : cyc.find? (hasPriority 2) = none) : cyc.find? isDone = none := by
  rw [List.find?_eq_none] at h ⊢
  exact fun w hw hdone => h w hw (hasPriority_of_isDone hdone)

theorem fetch_of_request {s : State} {bs : List Byte} (hreset : s.cycle.find? (hasPriority 1) = none)
    (hdone : s.cycle.find? (hasPriority 2) = none) (h : s.presentedReq = some bs) : s.fetch = some (.reqCh bs) := by
  simp [State.fetch, hreset, find?_isDone_eq_none hdone, hdone, h]

theorem step_of_reset {s : State} (v : Variant) (h : s.cycle.find? (hasPriority 1) = some (encode .reset)) :
    stepOf v s = .next s.advance.resetBlock :=
  step_of_fetchRow (fetchRow_eq_some (i := .reset) (fetch_of_reset h) rfl)

/-- The event of a completion's row, in either phase (rule R80). -/
@[simp] theorem inputOf_completionRow (ph : Phase) (d : Completion) : inputOf (completionRow ph d) = .done d := by
  cases ph <;> cases d <;> rfl

theorem step_of_done {s : State} {d : Completion} (v : Variant) (hreset : s.cycle.find? (hasPriority 1) = none)
    (h : s.cycle.find? isDone = some (encodeCompletion d)) : stepOf v s = .next (onCompletion d s.advance) := by
  have hrow := fetchRow_eq_some (fetch_of_done hreset h) (decode_encodeCompletion v s.phase d)
  rw [step_of_fetchRow hrow, inputOf_completionRow, effect]

theorem step_of_request {s : State} {c : Channel} (hreset : s.cycle.find? (hasPriority 1) = none)
    (hdone : s.cycle.find? (hasPriority 2) = none) (h : s.presentedReq = some [c.code8]) :
    stepOf c.variant s = .next (onRequest c (encodeFrame c) s.advance) := by
  have hrow := fetchRow_eq_some (fetch_of_request hreset hdone h) (decode_encodeRequest s.phase c)
  rw [step_of_fetchRow hrow, inputOf_requestRow, effect]

theorem find?_of_filter {α : Type} {p : α → Bool} {l ws : List α} (h : l.filter p = ws) : l.find? p = ws.head? := by
  rw [← List.head?_filter, h]

/-- Settles O27: one word of the deciding priority is the word the step takes, and its row is one shared operation. -/
theorem simultaneousEventsByPriority : Obligations.SimultaneousEventsByPriority := by
  intro v s
  refine ⟨fun hreset => ?reset, fun d hreset hdone => ?completion, ?request⟩
  case reset => exact ⟨_, step_of_reset v (find?_of_filter hreset), rfl, rfl, rfl, rfl⟩
  case completion =>
    refine ⟨_, step_of_done v (find?_of_filter hreset) (find?_of_filter hdone), ?_⟩
    cases hp : s.phase with
    | idle => simp [onCompletion_idle (s := s.advance) hp, hp]
    | busy => simp [onCompletion_busy (s := s.advance) hp]
  case request =>
    rintro c rfl hreset hdone hreq
    refine ⟨_, step_of_request (find?_of_filter hreset) (find?_of_filter hdone) hreq, ?_⟩
    cases hp : s.phase with
    | idle => simp [onRequest_idle (s := s.advance) hp]
    | busy => simp [onRequest_busy (s := s.advance) hp, hp]

/-- Settles O51: what `fetch` takes before the request port has a higher priority, and what it takes after finds the port empty. -/
theorem noWordDisplacesARequest : Obligations.NoWordDisplacesARequest := by
  intro s w bs hreq hfetch hprio
  simp only [State.fetch, Option.or_eq_some_iff, hreq, Option.map_some, Option.some.injEq, reduceCtorEq, false_and, or_false] at hfetch
  rcases hfetch with hw | ⟨_, hw | ⟨_, hw | ⟨_, rfl⟩⟩⟩
  · simp [portPriority_of_hasPriority (List.find?_some hw)] at hprio
  · simp [portPriority_of_hasPriority (hasPriority_of_isDone (List.find?_some hw))] at hprio
  · simp [portPriority_of_hasPriority (List.find?_some hw)] at hprio
  · rfl

theorem hasPriority_encodeCompletion (d : Completion) : hasPriority 1 (encodeCompletion d) = false := by
  cases d <;> rfl

theorem isDone_encodeCompletion (d : Completion) : isDone (encodeCompletion d) = true := by
  cases d <;> rfl

theorem requestBytes?_encodeCompletion (d : Completion) : requestBytes? (encodeCompletion d) = none := by
  cases d <;> rfl

/-- Settles O28: the first step takes the completion and leaves the request presented, so the second, with nothing else presented, takes
the request. -/
theorem completionLiftsTheHold : Obligations.CompletionLiftsTheHold := by
  rintro v s d c rest hbusy rfl hinputs
  have hcycle : s.cycle.find? (hasPriority 1) = none ∧ s.cycle.find? isDone = some (encodeCompletion d) ∧
      s.presentedReq = some [c.code8] ∧ s.inputs.tail = [] :: rest := by
    rcases hinputs with hi | ⟨hi, hreq⟩
    · simp [State.presentedReq, State.cycle, hi, hasPriority_encodeCompletion, isDone_encodeCompletion,
        requestBytes?_encodeCompletion, show hasPriority 1 (encodeRequest c) = false from rfl,
        show requestBytes? (encodeRequest c) = some [c.code8] from rfl]
    · simp [State.presentedReq, State.cycle, hi, hreq, hasPriority_encodeCompletion, isDone_encodeCompletion,
        requestBytes?_encodeCompletion]
  obtain ⟨hreset, hdone, hreq, htail⟩ := hcycle
  have hfirst := step_of_done c.variant hreset hdone
  rw [onCompletion_busy (s := s.advance) hbusy] at hfirst
  have hempty : (s.advance.respond (answerOf d)).cycle = [] := by simp [State.cycle, htail]
  have hkept : (s.advance.respond (answerOf d)).presentedReq = some [c.code8] := by
    rw [State.presentedReq, hempty]
    exact hreq
  have hsecond := step_of_request (by rw [hempty]; rfl) (by rw [hempty]; rfl) hkept
  rw [onRequest_idle rfl] at hsecond
  exact ⟨_, _, hfirst, rfl, hreq, reqReady_of_idle rfl, hsecond, rfl, rfl, rfl⟩

/-- Settles O29: the request port carries the new code, whose read is issued; a conforming requester keeps the old one there. -/
theorem changedHeldRequestServesTheNewCode : Obligations.ChangedHeldRequestServesTheNewCode := by
  rintro v s old new rest hidle rfl hreq hinputs
  have hcycle : s.cycle = [encodeRequest new] := by simp [State.cycle, hinputs]
  have hport : s.presentedReq = some [new.code8] := by simp [State.presentedReq, hcycle, encodeRequest, requestBytes?]
  refine ⟨fun hconf => ?_, _, step_idle_of_lone_request hidle hcycle, rfl, rfl, rfl⟩
  simp only [requesterConforms, hreq, hport, beq_iff_eq, Option.some.injEq, List.cons.injEq, and_true] at hconf
  exact hconf.symm

/-! ### Transactions and responses of a step -/

/-- Settles O30: of what a step can do only ISSUE starts a transaction, and only it takes a request in IDLE. -/
theorem oneTransactionPerAcceptedRequest : Obligations.OneTransactionPerAcceptedRequest := by
  intro v s t h
  cases stepTo_of_step h with
  | nothing hrow => exact .inl ⟨rfl, by simp [hrow]⟩
  | @issue i c hidle hrow hreq => exact .inr ⟨i, c, hidle, hrow, hreq, rfl, rfl, rfl⟩
  | hold hbusy => exact .inl ⟨rfl, by simp [hbusy]⟩
  | respond hbusy => exact .inl ⟨rfl, by simp [hbusy]⟩
  | ignore hidle hrow hdone => exact .inl ⟨rfl, by simp [hrow, hdone]⟩
  | reset hrow hrst => exact .inl ⟨rfl, by simp [hrow, hrst]⟩

theorem busStart_of_txnCount_eq_zero {s : State} (h : txnCount s.outputs = 0) : s.busStart = 0#1 := by
  have hnone : s.outputs.findSome? Output.txn? = none := by
    rw [txnCount, List.length_eq_zero_iff, List.filterMap_eq_nil_iff] at h
    exact List.findSome?_eq_none_iff.2 h
  rw [State.busStart, hnone]

/-- A step answers the completion it takes in BUSY, or it gives no response. -/
theorem step_respond_or_silent {v : Variant} {s t : State} (h : stepOf v s = .next t) :
    (∃ i d, s.phase = .busy ∧ s.fetchRow v = some i ∧ inputOf i = .done d ∧ t = s.advance.respond (answerOf d)) ∨
    ((∀ r, .rsp r ∉ t.outputs) ∧ t.rspValid = 0#1 ∧ ¬ (s.phase = .busy ∧ ∃ i d, s.fetchRow v = some i ∧ inputOf i = .done d)) := by
  cases stepTo_of_step h with
  | nothing hrow => exact .inr ⟨nofun, rfl, by simp [hrow]⟩
  | issue hidle => exact .inr ⟨by simp, rfl, by simp [hidle]⟩
  | hold hbusy hrow hreq => exact .inr ⟨nofun, rfl, by simp [hrow, hreq]⟩
  | @respond i d hbusy hrow hdone => exact .inl ⟨i, d, hbusy, hrow, hdone, rfl⟩
  | ignore hidle => exact .inr ⟨nofun, rfl, by simp [hidle]⟩
  | reset hrow hrst => exact .inr ⟨nofun, rfl, by simp [hrow, hrst]⟩

/-- Settles O31: a response is the answer to the completion that the step takes in BUSY, so its kind and its bits are the completion's. -/
theorem busFaultOnlyFromCompleteFault : Obligations.BusFaultOnlyFromCompleteFault := by
  intro v s t h
  rcases step_respond_or_silent h with ⟨i, d, hbusy, hrow, hdone, rfl⟩ | ⟨hsilent, hvalid, hnone⟩
  · cases d with
    | ok R =>
      simp [hbusy, hrow, hdone, answerOf, State.rspValid, State.rspIsFault, State.rspSample, State.response, Output.response?,
        Response.isFault, Response.sample]
    | fault f =>
      simp [hbusy, hrow, hdone, answerOf, State.rspValid, State.rspIsFault, State.rspFault, State.response, Output.response?,
        Response.isFault, Response.fault, eq_comm]
  · have hno : ∀ i d, s.phase = .busy → s.fetchRow v = some i → inputOf i ≠ .done d :=
      fun i d hbusy hrow hdone => hnone ⟨hbusy, i, d, hrow, hdone⟩
    refine ⟨fun f => ⟨fun hmem => absurd hmem (hsilent _), ?_⟩, ⟨?_, ?_⟩, ?_, ?_⟩
    · rintro ⟨hbusy, i, hrow, hdone⟩; exact absurd hdone (hno i _ hbusy hrow)
    · simp [hvalid]
    · rintro ⟨hbusy, i, f, hrow, hdone⟩; exact absurd hdone (hno i _ hbusy hrow)
    · intro f hbusy i hrow hdone; exact absurd hdone (hno i _ hbusy hrow)
    · intro R hbusy i hrow hdone; exact absurd hdone (hno i _ hbusy hrow)

/-- Settles O16: the row is `respond` of the fault, which differs from a success in the outputs only; a later step starts a transaction
only by accepting a request. -/
theorem completeFaultPropagatesTheFault : Obligations.CompleteFaultPropagatesTheFault := by
  intro s f hbusy
  refine ⟨s.respond (.err f), exec_completion_busy (i := .completeFault f) rfl hbusy, rfl, rfl, rfl, rfl, rfl, rfl, rfl, rfl,
    ?later, ?success⟩
  case later =>
    intro v n u x _ hstep hstart
    rcases oneTransactionPerAcceptedRequest v u x hstep with ⟨hzero, _⟩ | ⟨i, c, hidle, hrow, hreq, _⟩
    · simp [busStart_of_txnCount_eq_zero hzero] at hstart
    · exact ⟨hidle, i, c, hrow, hreq⟩
  case success =>
    intro R u hu
    obtain rfl : s.respond (.ok (decodeFrame R)) = u := by simpa [exec_completeOk_busy hbusy] using hu
    rfl

/-! ### VARIANT as a parameter -/

/-- A request acts by its code alone. -/
theorem effect_req_congr {c d : Channel} (h : c.code8 = d.code8) (s : State) : effect (.req c) s = effect (.req d) s := by
  cases hp : s.phase with
  | idle => simp only [effect, onRequest_idle hp, encodeFrame_congr h]
  | busy => simp only [effect, onRequest_busy hp, State.holdRequest, h]

/-- A word of the request port is refused, or is the request of the channel with its code. -/
theorem decodeChannel_eq (v : Variant) (b : Byte) :
    (b.toNat < v.nch ∧ ∃ c : Channel, c.variant = v ∧ c.code8 = b) ∨ (v.nch ≤ b.toNat ∧ decodeChannel v b = .error .codeTooWide) := by
  by_cases hb : b.toNat < v.nch
  · left
    refine ⟨hb, ?_⟩
    obtain ⟨c, hc⟩ : ∃ c, decodeChannel v b = .ok c := by
      cases v <;> exact ⟨_, if_pos hb⟩
    exact ⟨c, decodeChannel_ok hc⟩
  · right
    refine ⟨by omega, ?_⟩
    cases v <;> exact if_neg hb

theorem step_of_fetch_request {s : State} {c : Channel} (h : s.fetch = some (.reqCh [c.code8])) :
    stepOf c.variant s = .next (effect (.req c) s.advance) := by
  rw [step_of_fetchRow (fetchRow_eq_some h (decode_encodeRequest s.phase c)), inputOf_requestRow]

theorem decode_variant_of_not_request {w : PortWord} (h : portPriority w ≠ 3) (v u : Variant) (ph : Phase) :
    decode v ph w = decode u ph w := by
  cases w with
  | rst | done | readOp => rfl
  | reqCh | busWdata | writeOp => exact absurd rfl h

/-- Settles O53: a request acts by its code, which both blocks read alike where the CH4 block's port can carry it; no other word but a
command frame is read with the variant. -/
theorem variantIsAParameter : Obligations.VariantIsAParameter := by
  refine ⟨fun v => ⟨rfl, rfl⟩, rfl, fun s b hw => ⟨fun hlt => ?shared, fun hge hlt => ?ch8only⟩, fun s w hw hprio => ?other⟩
  case shared =>
    rcases decodeChannel_eq .ch8 b with ⟨_, c, hc, hcb⟩ | ⟨hge, _⟩
    · rcases decodeChannel_eq .ch4 b with ⟨_, d, hd, hdb⟩ | ⟨hge, _⟩
      · rw [← hc, ← hd, step_of_fetch_request (c := d) (by rw [hw, hdb]), step_of_fetch_request (c := c) (by rw [hw, hcb]),
          effect_req_congr (hdb.trans hcb.symm)]
      · simp only [Variant.nch] at hge; omega
    · simp only [Variant.nch] at hge; omega
  case ch8only =>
    constructor
    · rcases decodeChannel_eq .ch4 b with ⟨hlt4, _⟩ | ⟨_, herr⟩
      · simp only [Variant.nch] at hlt4; omega
      · exact step_of_reject (v := .ch4) (e := .codeTooWide) hw (by simp only [decode, decodeRequest, herr])
    · rcases decodeChannel_eq .ch8 b with ⟨_, c, hc, hcb⟩ | ⟨hge8, _⟩
      · exact ⟨_, hc ▸ step_of_fetch_request (c := c) (by rw [hw, hcb])⟩
      · simp only [Variant.nch] at hge8; omega
  case other => simp only [stepOf, hw, decode_variant_of_not_request hprio .ch4 .ch8]

end Sys2Proof.Machine
end

section
/-! PROOFS. Runs on legal inputs (spec/30_encoding.md section 5, spec/70_reset_and_hazards.md sections 1 and 3): no step stops, a BUSY block
waits for its completion, and an IDLE block with nothing requested stays silent. -/

namespace Sys2Proof.Machine

/-! ### Runs, joined and by their next cycles -/

/-- A run goes on where it ended, and its trace is the two traces. -/
theorem runN_add {v : Variant} (n : Nat) : ∀ m s t, runN v m s = .next t →
    runN v (m + n) s = runN v n t ∧ trace v (m + n) s = trace v m s ++ trace v n t := by
  apply runN_induction
  case base => simp
  case next =>
    rintro m s t u hs _ ⟨hrun, htrace⟩
    rw [Nat.add_right_comm, runN_succ_of_next hs, trace_succ_of_next hs, trace_succ_of_next hs, htrace, List.append_assoc]
    exact ⟨hrun, rfl⟩

theorem trace_succ_of_stop {v : Variant} {s : State} (h : ∀ t, stepOf v s ≠ .next t) (n : Nat) : trace v (n + 1) s = [] := by
  rw [trace]
  split
  · next t ht => exact absurd ht (h t)
  · rfl
  · rfl

/-- What holds of the cycles of the next steps, and of nothing presented, holds of the coming one. -/
theorem cycle_of_take {P : Cycle → Prop} {s : State} {n : Nat} (hnil : P []) (h : ∀ cyc ∈ s.inputs.take (n + 1), P cyc) : P s.cycle := by
  cases hi : s.inputs with
  | nil => simpa [State.cycle, hi] using hnil
  | cons cyc later => simpa [State.cycle, hi] using h cyc (by simp [hi])

theorem forall_take_of_step {v : Variant} {P : Cycle → Prop} {s t : State} {n : Nat} (hs : stepOf v s = .next t)
    (h : ∀ cyc ∈ s.inputs.take (n + 1), P cyc) : ∀ cyc ∈ t.inputs.take n, P cyc := by
  rw [step_inputs_take hs n]
  exact fun cyc hm => h cyc (List.mem_of_mem_tail hm)

/-! ### Legal inputs -/

/-- What the requester keeps presented is legal. -/
def LegalPort (v : Variant) (s : State) : Prop := ∀ bs, s.req = some bs → legalWord v (.reqCh bs) = true

theorem decode_of_legalWord {v : Variant} {w : PortWord} (hlegal : legalWord v w = true) (hevent : isEvent w = true) (ph : Phase) :
    ∃ i, decode v ph w = .ok i := by
  simp only [legalWord, hevent, Bool.not_true, Bool.false_or] at hlegal
  split at hlegal
  · next i hi =>
    obtain ⟨j, hj, _⟩ := decode_phase hi ph
    exact ⟨j, hj⟩
  · cases hlegal

/-- A step on legal words answers a next state. -/
theorem step_of_legal {v : Variant} {s : State} (hcycle : legalCycle v s.cycle = true) (hport : LegalPort v s) :
    ∃ t, stepOf v s = .next t := by
  cases hw : s.fetch with
  | none => exact ⟨_, step_of_fetch_none hw v⟩
  | some w =>
    obtain ⟨i, hi⟩ : ∃ i, decode v s.phase w = .ok i := by
      rcases fetch_cases hw with ⟨hmem, hevent, _⟩ | ⟨bs, hreq, rfl, _⟩
      · exact decode_of_legalWord (List.all_eq_true.1 hcycle w hmem) hevent s.phase
      · exact decode_of_legalWord (hport bs hreq) rfl s.phase
    exact ⟨_, step_of_fetchRow (fetchRow_eq_some hw hi)⟩

theorem advance_legalPort {v : Variant} {s : State} (hcycle : legalCycle v s.cycle = true) (hport : LegalPort v s) :
    LegalPort v s.advance := by
  intro bs hreq
  rcases presentedReq_eq_some hreq with hmem | ⟨hkept, _⟩
  · exact List.all_eq_true.1 hcycle _ hmem
  · exact hport bs hkept

theorem legalWord_code8 (c : Channel) : legalWord c.variant (.reqCh [c.code8]) = true := by
  have hd : decode c.variant .idle (.reqCh [c.code8]) = .ok (requestRow .idle c) := decode_encodeRequest .idle c
  simp [legalWord, hd]

/-- The port keeps what was on it, or holds the code of a request that the step held. -/
theorem step_legalPort {v : Variant} {s t : State} (h : stepOf v s = .next t) (hcycle : legalCycle v s.cycle = true)
    (hport : LegalPort v s) : LegalPort v t := by
  have hkept := advance_legalPort hcycle hport
  cases stepTo_of_step h with
  | nothing | respond | ignore | reset => exact hkept
  | issue => exact nofun
  | @hold i c _ _ _ hv =>
    rintro bs hreq
    cases hreq
    exact hv ▸ legalWord_code8 c

theorem cycle_legal {v : Variant} {s : State} (h : ∀ cyc ∈ s.inputs, legalCycle v cyc = true) : legalCycle v s.cycle = true := by
  rcases cycle_mem (s := s) with hnil | hmem
  · rw [hnil]; rfl
  · exact h _ hmem

theorem step_legalInputs {v : Variant} {s : State} (hl : LegalInputs v s) : ∃ t, stepOf v s = .next t ∧ LegalInputs v t := by
  obtain ⟨hinputs, hport⟩ := hl
  have hcycle := cycle_legal hinputs
  obtain ⟨t, ht⟩ := step_of_legal hcycle hport
  refine ⟨t, ht, fun cyc hmem => hinputs cyc ?_, step_legalPort ht hcycle hport⟩
  rw [step_inputs ht] at hmem
  exact List.mem_of_mem_tail hmem

/-- Settles O42: every step on legal inputs answers and leaves legal inputs. -/
theorem legalInputsNeverStop : Obligations.LegalInputsNeverStop := by
  intro v s hl n
  induction n generalizing s with
  | zero => exact ⟨s, rfl, hl⟩
  | succ n ih =>
    obtain ⟨t, ht, hlt⟩ := step_legalInputs hl
    rw [runN_succ_of_next ht]
    exact ih t hlt

/-! ### A BUSY block waits -/

theorem step_quiet {v : Variant} {s t : State} (h : stepOf v s = .next t) (hbusy : s.phase = .busy) (hq : quiet s.cycle = true) :
    t.phase = .busy ∧ t.cmdReg = s.cmdReg ∧ t.outputs = [] := by
  obtain ⟨hreset, hdone⟩ := quiet_eq_true_iff.1 hq
  cases stepTo_of_step h with
  | nothing | hold => exact ⟨hbusy, rfl, rfl⟩
  | issue hidle | ignore hidle => exact absurd (hidle.symm.trans hbusy) nofun
  | respond _ _ _ hpresented => simp [hdone] at hpresented
  | reset _ _ hpresented => simp [hreset] at hpresented

/-- Any number of quiet legal cycles passes, and leaves the outstanding transaction as it was. -/
theorem wait_run {v : Variant} {n : Nat} {s : State} (hbusy : s.phase = .busy) (hport : LegalPort v s)
    (h : ∀ cyc ∈ s.inputs.take n, quiet cyc = true ∧ legalCycle v cyc = true) :
    ∃ u, runN v n s = .next u ∧ trace v n s = [] ∧ u.phase = .busy ∧ u.cmdReg = s.cmdReg ∧ u.inputs = s.inputs.drop n := by
  induction n generalizing s with
  | zero => exact ⟨s, rfl, rfl, hbusy, rfl, rfl⟩
  | succ n ih =>
    obtain ⟨hquiet, hlegal⟩ := cycle_of_take (P := fun cyc => quiet cyc = true ∧ legalCycle v cyc = true) ⟨rfl, rfl⟩ h
    obtain ⟨t, ht⟩ := step_of_legal hlegal hport
    obtain ⟨htbusy, htcmd, htout⟩ := step_quiet ht hbusy hquiet
    obtain ⟨u, hrun, htrace, hubusy, hucmd, huinputs⟩ := ih htbusy (step_legalPort ht hlegal hport) (forall_take_of_step ht h)
    refine ⟨u, ?_, ?_, hubusy, hucmd.trans htcmd, ?_⟩
    · rw [runN_succ_of_next ht, hrun]
    · rw [trace_succ_of_next ht, htout, htrace]; rfl
    · rw [huinputs, step_inputs ht, List.drop_tail]

/-- Settles O33: quiet cycles pass and leave the block as it is; without a completion only RESET ends a transaction. -/
theorem hangWithoutCompletion : Obligations.HangWithoutCompletion := by
  constructor
  · rintro v s n hbusy ⟨hinputs, hport⟩ hquiet
    obtain ⟨u, hrun, htrace, hubusy, hucmd, _⟩ :=
      wait_run hbusy hport fun cyc hm => ⟨hquiet cyc hm, hinputs cyc (List.mem_of_mem_take hm)⟩
    exact ⟨u, hrun, hubusy, hucmd, reqReady_of_busy hubusy, htrace⟩
  · intro v s t hbusy hdone h htidle
    cases stepTo_of_step h with
    | nothing | hold => exact absurd (hbusy.symm.trans htidle) nofun
    | issue hidle | ignore hidle => exact absurd (hidle.symm.trans hbusy) nofun
    | respond _ _ _ hpresented => simp [hdone] at hpresented
    | reset _ _ hpresented => exact ⟨hpresented, rfl⟩

theorem cycle_of_inputs {s : State} {cyc : Cycle} {later : List Cycle} (h : s.inputs = cyc :: later) : s.cycle = cyc := by
  simp [State.cycle, h]

/-- Settles O37: ISSUE of the request, a wait through the cycles in between, and the response to the completion. -/
theorem oneReadFromIssueToResponse : Obligations.OneReadFromIssueToResponse := by
  rintro v s c holds rest d hidle rfl hholds hinputs
  have hissue := step_idle_of_lone_request hidle (cycle_of_inputs hinputs)
  have hlater : (s.advance.startTxn (encodeFrame c)).inputs = holds ++ [encodeCompletion d] :: rest := by simp [hinputs]
  obtain ⟨u, hrun, htrace, hubusy, hucmd, huinputs⟩ :=
    wait_run (v := c.variant) (n := holds.length) (s := s.advance.startTxn (encodeFrame c)) rfl nofun
      (by rw [hlater, List.take_left]; exact hholds)
  rw [hlater, List.drop_left] at huinputs
  have hcycle := cycle_of_inputs huinputs
  have hresponse := step_of_done (s := u) (d := d) c.variant
    (by simp [hcycle, hasPriority_encodeCompletion]) (by simp [hcycle, isDone_encodeCompletion])
  rw [onCompletion_busy (s := u.advance) hubusy] at hresponse
  obtain ⟨hjoined, hjoinedTrace⟩ := runN_add 1 _ _ _ hrun
  refine ⟨u.advance.respond (answerOf d), ?_, ?_, rfl, hucmd, by simp [huinputs]⟩
  · rw [runN_succ_of_next hissue, hjoined, runN_succ_of_next hresponse, runN_zero]
  · rw [trace_succ_of_next hissue, hjoinedTrace, htrace, trace_succ_of_next hresponse]
    rfl

/-! ### An IDLE block with nothing requested stays silent -/

theorem step_unrequested {v : Variant} {s t : State} (h : stepOf v s = .next t) (hidle : s.phase = .idle) (hreq : s.req = none)
    (hcycle : presentsRequest s.cycle = false) : t.phase = .idle ∧ t.req = none ∧ t.outputs = [] := by
  have hport : s.presentedReq = none := by
    rw [Option.eq_none_iff_forall_ne_some]
    intro bs hbs
    rcases presentedReq_eq_some hbs with hmem | ⟨hkept, _⟩
    · exact absurd (any_of_mem (k := 3) hmem rfl rfl) (by simpa [presentsRequest] using hcycle)
    · simp [hreq] at hkept
  cases stepTo_of_step h with
  | nothing | ignore => exact ⟨hidle, hport, rfl⟩
  | reset => exact ⟨rfl, hport, rfl⟩
  | issue _ _ _ _ _ _ hany => simp [hcycle, hreq] at hany
  | hold hbusy | respond hbusy => exact absurd (hidle.symm.trans hbusy) nofun

theorem trace_unrequested {v : Variant} {n : Nat} {s : State} (hidle : s.phase = .idle) (hreq : s.req = none)
    (h : ∀ cyc ∈ s.inputs.take n, presentsRequest cyc = false) : trace v n s = [] := by
  induction n generalizing s with
  | zero => rfl
  | succ n ih =>
    by_cases hstep : ∃ t, stepOf v s = .next t
    · obtain ⟨t, ht⟩ := hstep
      obtain ⟨htidle, htreq, htout⟩ := step_unrequested ht hidle hreq (cycle_of_take (P := (presentsRequest · = false)) rfl h)
      rw [trace_succ_of_next ht, htout, ih htidle htreq (forall_take_of_step ht h)]
      rfl
    · exact trace_succ_of_stop (by simpa using hstep) n

/-- Settles O35: RESET leaves the block IDLE, and the request port empty as the premise says. -/
theorem abandonedRequestIsNeverAnswered : Obligations.AbandonedRequestIsNeverAnswered := by
  intro v s t n hreset hreq hcycles
  obtain rfl := exec_next hreset
  exact trace_unrequested rfl hreq hcycles

/-! ### What a BUSY block takes -/

/-- The rows of a block of variant `v` whose guard admits BUSY. -/
theorem busy_rows {v : Variant} {i : Instr} (hv : wellFormed v i = true) (hen : i.enabledIn .busy = true) :
    (∃ R, i = .completeOk R) ∨ (∃ f, i = .completeFault f) ∨ (∃ c, c.variant = v ∧ i = .hold c) ∨ i = .reset ∨
      (∃ n0 n1 h l, i = .reply n0 n1 h l) ∨ (∃ c, c.variant = v ∧ i.guardPhase = none ∧ inputOf i = .req c) := by
  cases i with
  | issueCh8 | issueCh4 | ignoreDone => exact absurd (phase_eq_of_enabledIn rfl hen) nofun
  | completeOk R => exact .inl ⟨R, rfl⟩
  | completeFault f => exact .inr (.inl ⟨f, rfl⟩)
  | hold c => exact .inr (.inr (.inl ⟨c, (variant_eq_of_wellFormed rfl hv).symm, rfl⟩))
  | reset => exact .inr (.inr (.inr (.inl rfl)))
  | reply n0 n1 h l => exact .inr (.inr (.inr (.inr (.inl ⟨n0, n1, h, l, rfl⟩))))
  | readSe8 | readSe4 | readSe8Ch0 | readSe8Ch1 | readSe8Ch2 | readSe8Ch3 | readSe8Ch4 | readSe8Ch5 | readSe8Ch6 | readSe8Ch7
  | readSe4Ch0 | readSe4Ch1 | readSe4Ch2 | readSe4Ch3 =>
    obtain rfl := variant_eq_of_wellFormed rfl hv
    exact .inr (.inr (.inr (.inr (.inr ⟨_, rfl, rfl, rfl⟩))))

/-- Two rows of one event run alike. -/
theorem exec_congr_input {i j : Instr} (h : inputOf i = inputOf j) (s : State) : exec i s = exec j s := by
  rw [exec_eq, exec_eq, h]

/-- Settles O32: the decoder gives enabled rows of the variant, and of those whose guard admits BUSY the frame rows do what HOLD of their
channel does and REPLY what COMPLETE_OK of its frame does. -/
theorem busyBlockIsPassive : Obligations.BusyBlockIsPassive := by
  intro v s hbusy
  refine ⟨fun i hrow => ?rows, fun t h => ⟨?silent, fun hidle => ?ends⟩, fun n u hquiet hrun => runN_busy_of_quiet v n s u hrun hbusy hquiet⟩
  case rows =>
    obtain ⟨w, _, hd, _⟩ := fetchRow_cases hrow
    obtain ⟨hwf, hen, _⟩ := decodeAcceptsOnlyEnabledRowsWords v s.phase w i hd
    rw [hbusy] at hen
    refine ⟨hen, ?_⟩
    refine (busy_rows hwf hen).imp_right (Or.imp_right (Or.imp_right (Or.imp_right (Or.imp ?reply ?frame))))
    case reply =>
      rintro ⟨n0, n1, h, l, rfl⟩
      exact ⟨n0, n1, h, l, rfl, exec_congr_input rfl _⟩
    case frame =>
      rintro ⟨c, hc, hguard, hreq⟩
      exact ⟨c, hc, hguard, hreq, exec_congr_input hreq _⟩
  case silent =>
    rcases oneTransactionPerAcceptedRequest v s t h with ⟨hzero, _⟩ | ⟨_, _, hidle, _⟩
    · exact busStart_of_txnCount_eq_zero hzero
    · exact absurd (hidle.symm.trans hbusy) nofun
  case ends =>
    by_contra hno
    rw [not_or, Bool.not_eq_true, Bool.not_eq_true, ← quiet_eq_true_iff] at hno
    exact absurd ((step_busy_of_quiet h hbusy hno).symm.trans hidle) nofun

end Sys2Proof.Machine
end

section
/-! PROOFS. What every run keeps: each transaction is answered once, outstanding or abandoned, and owed a completion until one comes
(spec/60_exceptions.md section 2, spec/70_reset_and_hazards.md), no state crosses reads, and the monitor stays silent. -/

namespace Sys2Proof.Machine

/-! ### Transactions and responses -/

@[simp] theorem txnCount_append (os ps : List Output) : txnCount (os ++ ps) = txnCount os + txnCount ps := by
  simp [txnCount]

@[simp] theorem rspCount_append (os ps : List Output) : rspCount (os ++ ps) = rspCount os + rspCount ps := by
  simp [rspCount]

@[simp] theorem txnCount_nil : txnCount [] = 0 := rfl
@[simp] theorem rspCount_nil : rspCount [] = 0 := rfl
@[simp] theorem txnCount_busReq (ops : List SubOp) : txnCount [.busReq ops] = 1 := rfl
@[simp] theorem rspCount_busReq (ops : List SubOp) : rspCount [.busReq ops] = 0 := rfl
@[simp] theorem txnCount_rsp (r : Response) : txnCount [.rsp r] = 0 := rfl
@[simp] theorem rspCount_rsp (r : Response) : rspCount [.rsp r] = 1 := rfl

theorem outstanding_of_idle {s : State} (h : s.phase = .idle) : outstanding s = 0 := by
  rw [outstanding, h]

theorem outstanding_of_busy {s : State} (h : s.phase = .busy) : outstanding s = 1 := by
  rw [outstanding, h]

@[simp] theorem outstanding_advance (s : State) : outstanding s.advance = outstanding s := rfl
@[simp] theorem outstanding_startTxn (F : Frame) (s : State) : outstanding (s.startTxn F) = 1 := rfl
@[simp] theorem outstanding_holdRequest (c : Channel) (s : State) : outstanding (s.holdRequest c) = outstanding s := rfl
@[simp] theorem outstanding_respond (r : Response) (s : State) : outstanding (s.respond r) = 0 := rfl
@[simp] theorem outstanding_ignoreDone (s : State) : outstanding s.ignoreDone = outstanding s := rfl
@[simp] theorem outstanding_resetBlock (s : State) : outstanding s.resetBlock = 0 := rfl

/-- The transactions that a reset presented in this step abandons (rule R111). -/
def abandoned (s : State) : Nat := if presentsReset s.cycle then outstanding s else 0

theorem abandonCount_succ_of_next {v : Variant} {s t : State} (h : stepOf v s = .next t) (n : Nat) :
    abandonCount v (n + 1) s = abandoned s + abandonCount v n t := by
  rw [abandonCount, h]
  rfl

theorem abandoned_of_no_reset {s : State} (h : presentsReset s.cycle = false) : abandoned s = 0 := by
  simp [abandoned, h]

theorem abandoned_of_reset {s : State} (h : presentsReset s.cycle = true) : abandoned s = outstanding s := by
  simp [abandoned, h]

theorem step_balance {v : Variant} {s t : State} (h : stepOf v s = .next t) :
    outstanding s + txnCount t.outputs = rspCount t.outputs + abandoned s + outstanding t := by
  cases stepTo_of_step h with
  | nothing _ hfetch => simp [abandoned_of_no_reset (no_reset_of_fetch_none hfetch)]
  | issue hidle _ _ _ hreset => simp [abandoned_of_no_reset hreset, outstanding_of_idle hidle]
  | hold _ _ _ _ hreset => simp [abandoned_of_no_reset hreset]
  | respond hbusy _ _ _ hreset => simp [abandoned_of_no_reset hreset, outstanding_of_busy hbusy]
  | ignore _ _ _ _ hreset => simp [abandoned_of_no_reset hreset]
  | reset _ _ hreset => simp [abandoned_of_reset hreset]

/-- Settles O39: by the balance of each step. -/
theorem everyTransactionIsAccountedFor : Obligations.EveryTransactionIsAccountedFor := by
  intro v
  apply runN_induction
  case base => intro s; simp [abandonCount]
  case next =>
    intro n s t u hs _ ih
    have hstep := step_balance hs
    rw [trace_succ_of_next hs, abandonCount_succ_of_next hs, txnCount_append, rspCount_append]
    omega

/-- A step with no reset moves the alternation on by what it outputs. -/
theorem step_alternates {v : Variant} {s t : State} (h : stepOf v s = .next t) (hreset : presentsReset s.cycle = false)
    (later : List Output) : alternates s.phase (t.outputs ++ later) = alternates t.phase later := by
  cases stepTo_of_step h with
  | nothing | hold | ignore => rfl
  | issue hidle => rw [hidle]; rfl
  | respond hbusy => rw [hbusy]; rfl
  | reset _ _ hpresented => simp [hreset] at hpresented

theorem run_without_reset {v : Variant} : ∀ n s t, runN v n s = .next t → (∀ cyc ∈ s.inputs.take n, presentsReset cyc = false) →
    alternates s.phase (trace v n s) = true ∧ abandonCount v n s = 0 := by
  apply runN_induction
  case base => intro s _; cases s.phase <;> exact ⟨rfl, rfl⟩
  case next =>
    intro n s t u hs _ ih hno
    have hreset := cycle_of_take (P := (presentsReset · = false)) rfl hno
    obtain ⟨halt, hzero⟩ := ih (forall_take_of_step hs hno)
    rw [trace_succ_of_next hs, abandonCount_succ_of_next hs, step_alternates hs hreset, abandoned_of_no_reset hreset, hzero]
    exact ⟨halt, rfl⟩

/-- Settles O38: the count is that of every run, with nothing abandoned. -/
theorem transactionsAndResponsesAlternate : Obligations.TransactionsAndResponsesAlternate := by
  intro v n s t hrun hno
  obtain ⟨halt, hzero⟩ := run_without_reset n s t hrun hno
  have hcount := everyTransactionIsAccountedFor v n s t hrun
  exact ⟨halt, by omega⟩

/-! ### What the collaborator owes -/

theorem owedNext_of_completion {o : Nat} {s t : State} (h : presentsCompletion s.cycle = true) :
    owedNext o s t = o - 1 + txnCount t.outputs := by
  rw [owedNext, if_pos h]

theorem owedNext_of_no_completion {o : Nat} {s t : State} (h : presentsCompletion s.cycle = false) :
    owedNext o s t = o + txnCount t.outputs := by
  rw [owedNext, if_neg (by simp [h])]

/-- Where the collaborator owes what is outstanding it still does after a step, and it owes beyond that no more than before, but for what
a reset abandons. -/
theorem step_owed {v : Variant} {s t : State} {o : Nat} (h : stepOf v s = .next t) (ho : outstanding s ≤ o) :
    outstanding t ≤ owedNext o s t ∧ owedNext o s t + outstanding s ≤ o + abandoned s + outstanding t := by
  cases stepTo_of_step h with
  | nothing _ hfetch => simpa [owedNext_of_no_completion (no_completion_of_fetch_none hfetch)] using ho
  | issue hidle _ _ _ _ hdone => simp [owedNext_of_no_completion hdone, outstanding_of_idle hidle]
  | hold _ _ _ _ _ hdone => simpa [owedNext_of_no_completion hdone] using ho
  | respond hbusy _ _ hdone =>
    rw [outstanding_of_busy hbusy] at ho ⊢
    simp only [owedNext_of_completion hdone, respond_outputs, txnCount_rsp, outstanding_respond]
    omega
  | ignore hidle _ _ hdone =>
    simp only [owedNext_of_completion hdone, ignoreDone_outputs, txnCount_nil, outstanding_ignoreDone, outstanding_advance,
      outstanding_of_idle hidle]
    omega
  | reset _ _ hreset =>
    have hle : owedNext o s s.advance.resetBlock ≤ o := by
      simp only [owedNext, resetBlock_outputs, txnCount_nil]
      split <;> omega
    simp only [abandoned_of_reset hreset, outstanding_resetBlock]
    omega

theorem run_owed {v : Variant} : ∀ n s u, runN v n s = .next u → ∀ o, outstanding s ≤ o →
    outstanding u ≤ owed v o n s ∧ owed v o n s + outstanding s ≤ o + abandonCount v n s + outstanding u := by
  apply runN_induction
  case base => intro s o ho; simp [ho, abandonCount]
  case next =>
    intro n s t u hs _ ih o ho
    obtain ⟨hnext, hdebt⟩ := step_owed hs ho
    obtain ⟨hlast, hrest⟩ := ih _ hnext
    rw [owed_succ_of_next hs, abandonCount_succ_of_next hs]
    exact ⟨hlast, by omega⟩

/-- Settles O52: in IDLE nothing is outstanding, so what the collaborator still owes there has been abandoned. -/
theorem spuriousCompletionsAreStale : Obligations.SpuriousCompletionsAreStale := by
  intro v n s u hconf hrun hpresented hidle
  have howed := hconf n u hrun hpresented
  obtain ⟨_, hdebt⟩ := run_owed n s u hrun _ (Nat.le_refl _)
  rw [outstanding_of_idle hidle] at hdebt
  omega

theorem step_answered {v : Variant} {s t : State} (h : stepOf v s = .next t) (hbusy : s.phase = .busy)
    (hreset : presentsReset s.cycle = false) (hdone : presentsCompletion s.cycle = true) : ∃ r, t = s.advance.respond r := by
  cases stepTo_of_step h with
  | nothing _ hfetch => simp [no_completion_of_fetch_none hfetch] at hdone
  | issue hidle | ignore hidle => exact absurd (hidle.symm.trans hbusy) nofun
  | hold _ _ _ _ _ hnone => simp [hnone] at hdone
  | respond => exact ⟨_, rfl⟩
  | reset _ _ hpresented => simp [hreset] at hpresented

/-- A BUSY block answers in the first cycle that presents a completion, where no reset comes before. -/
theorem busy_answered {v : Variant} : ∀ (cycs : List Cycle) (u : State), u.inputs = cycs → u.phase = .busy → LegalInputs v u →
    (∀ cyc ∈ cycs, presentsReset cyc = false) → (∃ cyc ∈ cycs, presentsCompletion cyc = true) →
    ∃ n t r, n < cycs.length ∧ runN v (n + 1) u = .next t ∧ t.phase = .idle ∧ t.outputs = [.rsp r] ∧
      trace v (n + 1) u = [.rsp r] := by
  intro cycs
  induction cycs with
  | nil => simp
  | cons cyc later ih =>
    intro u hinputs hbusy hlegal hreset hdone
    obtain ⟨t, ht, htlegal⟩ := step_legalInputs hlegal
    have hcycle := cycle_of_inputs hinputs
    have hnoreset : presentsReset u.cycle = false := hcycle ▸ hreset cyc (List.mem_cons_self ..)
    cases hnow : presentsCompletion u.cycle with
    | true =>
      obtain ⟨r, rfl⟩ := step_answered ht hbusy hnoreset hnow
      refine ⟨0, _, r, Nat.succ_pos _, runN_succ_of_next ht 0, rfl, rfl, ?_⟩
      rw [trace_succ_of_next ht]
      rfl
    | false =>
      obtain ⟨htbusy, _, htout⟩ := step_quiet ht hbusy (quiet_eq_true_iff.2 ⟨hnoreset, hnow⟩)
      have hlater : ∃ cyc ∈ later, presentsCompletion cyc = true := by
        obtain ⟨c, hmem, hc⟩ := hdone
        rcases List.mem_cons.1 hmem with rfl | hmem
        · simp [← hcycle, hnow] at hc
        · exact ⟨c, hmem, hc⟩
      obtain ⟨n, x, r, hn, hrun, hidle, hout, htrace⟩ := ih t (by rw [step_inputs ht, hinputs]; rfl) htbusy htlegal
        (fun c hc => hreset c (List.mem_cons_of_mem _ hc)) hlater
      refine ⟨n + 1, x, r, Nat.succ_lt_succ hn, (runN_succ_of_next ht _).trans hrun, hidle, hout, ?_⟩
      rw [trace_succ_of_next ht, htout, htrace]
      rfl

theorem run_legalInputs {v : Variant} {n : Nat} {s u : State} (h : LegalInputs v s) (hrun : runN v n s = .next u) : LegalInputs v u := by
  obtain ⟨t, ht, hlegal⟩ := legalInputsNeverStop v s h n
  rw [hrun] at ht
  cases ht
  exact hlegal

/-- Settles O41: while BUSY the collaborator owes a completion, which liveness puts among the coming cycles. -/
theorem readTerminatesUnderBusLiveness : Obligations.ReadTerminatesUnderBusLiveness := by
  intro v s u m hlegal hlive hrun hreset hbusy
  obtain ⟨howed, _⟩ := run_owed m s u hrun _ (Nat.le_refl _)
  rw [outstanding_of_busy hbusy] at howed
  have hcount : 0 < u.inputs.countP presentsCompletion := by have := hlive m u hrun; omega
  exact busy_answered u.inputs u rfl hbusy (run_legalInputs hlegal hrun) hreset (List.countP_pos_iff.1 hcount)

/-! ### CMD_REG while IDLE -/

theorem sameButIdleCommand_refl (s : State) : sameButIdleCommand s s := ⟨rfl, fun _ => rfl⟩

theorem sameButIdleCommand_of_idle {s : State} (h : s.phase = .idle) (w : Word24) : sameButIdleCommand s { s with cmdReg := w } :=
  ⟨rfl, fun hbusy => absurd (h.symm.trans hbusy) nofun⟩

/-- Two related states are one, or IDLE and one but for CMD_REG. -/
theorem sameButIdleCommand_cases {s t : State} (h : sameButIdleCommand s t) :
    t = s ∨ s.phase = .idle ∧ ∃ w, t = { s with cmdReg := w } := by
  obtain ⟨heq, hcmd⟩ := h
  have ht : t = { s with cmdReg := t.cmdReg } := congrArg (fun x : State => { x with cmdReg := t.cmdReg }) heq.symm
  cases hp : s.phase with
  | idle => exact .inr ⟨rfl, _, hp ▸ ht⟩
  | busy => exact .inl (by rw [ht, ← hcmd hp])

/-- No event reads CMD_REG while IDLE. -/
theorem effect_sameButIdleCommand {s : State} (hidle : s.phase = .idle) (e : Input) (w : Word24) :
    (effect e { s with cmdReg := w }).outputs = (effect e s).outputs ∧ sameButIdleCommand (effect e s) (effect e { s with cmdReg := w }) := by
  cases e with
  | req c =>
    rw [effect, effect, onRequest_idle hidle, onRequest_idle (s := { s with cmdReg := w }) hidle]
    exact ⟨rfl, sameButIdleCommand_refl _⟩
  | done d =>
    rw [effect, effect, onCompletion_idle hidle, onCompletion_idle (s := { s with cmdReg := w }) hidle]
    exact ⟨rfl, sameButIdleCommand_of_idle (s := s.ignoreDone) hidle w⟩
  | rst => exact ⟨rfl, sameButIdleCommand_refl _⟩

theorem stopOf_ne_next (e : Reject) (t : State) : stopOf e ≠ .next t := by
  cases e <;> exact nofun

/-- Related states take the same step: both answer, with the same outputs and related states, or neither does. -/
theorem step_sameButIdleCommand {v : Variant} {s t : State} (h : sameButIdleCommand s t) :
    (∃ s' t', stepOf v s = .next s' ∧ stepOf v t = .next t' ∧ t'.outputs = s'.outputs ∧ sameButIdleCommand s' t') ∨
    (∀ x, stepOf v s ≠ .next x) ∧ ∀ x, stepOf v t ≠ .next x := by
  rcases sameButIdleCommand_cases h with rfl | ⟨hidle, w, rfl⟩
  · by_cases hnext : ∃ x, stepOf v t = .next x
    · obtain ⟨x, hx⟩ := hnext
      exact .inl ⟨x, x, hx, hx, rfl, sameButIdleCommand_refl x⟩
    · exact .inr ⟨by simpa using hnext, by simpa using hnext⟩
  · have hfetch : { s with cmdReg := w }.fetch = s.fetch := rfl
    have hadvance : { s with cmdReg := w }.advance = { s.advance with cmdReg := w } := rfl
    cases hf : s.fetch with
    | none =>
      exact .inl ⟨_, _, step_of_fetch_none hf v, step_of_fetch_none (hfetch.trans hf) v, rfl,
        sameButIdleCommand_of_idle (s := s.advance) hidle w⟩
    | some word =>
      cases hd : decode v s.phase word with
      | ok i =>
        obtain ⟨hout, hsame⟩ := effect_sameButIdleCommand (s := s.advance) hidle (inputOf i) w
        refine .inl ⟨_, _, step_of_fetchRow (fetchRow_eq_some hf hd), ?_, hout, hsame⟩
        exact step_of_fetchRow (fetchRow_eq_some (hfetch.trans hf) hd)
      | error e =>
        refine .inr ⟨fun x => ?_, fun x => ?_⟩
        · rw [step_of_reject hf hd]; exact stopOf_ne_next e x
        · rw [step_of_reject (hfetch.trans hf) hd]; exact stopOf_ne_next e x

/-- Settles O40: related states step alike, so by induction they run alike. -/
theorem noStateCrossesReads : Obligations.NoStateCrossesReads := by
  intro v n
  induction n with
  | zero => exact fun s t h => ⟨rfl, fun s' hs => ⟨t, rfl, by cases hs; exact h⟩⟩
  | succ n ih =>
    intro s t h
    rcases step_sameButIdleCommand (v := v) h with ⟨x, y, hx, hy, hout, hxy⟩ | ⟨hs, ht⟩
    · obtain ⟨htrace, hrun⟩ := ih x y hxy
      rw [trace_succ_of_next hx, trace_succ_of_next hy, runN_succ_of_next hx, runN_succ_of_next hy, htrace, hout]
      exact ⟨rfl, hrun⟩
    · refine ⟨by rw [trace_succ_of_stop hs, trace_succ_of_stop ht], fun s' hrun => ?_⟩
      obtain ⟨x, hx, _⟩ := runN_succ hrun
      exact absurd hx (hs x)

/-! ### The monitor (rule R56) -/

/-- A run keeps the invariant, and each transaction it starts is that of a channel's frame. -/
theorem run_blockInv {v : Variant} : ∀ n s t, runN v n s = .next t → BlockInv v s →
    BlockInv v t ∧ ∀ ops, .busReq ops ∈ trace v n s → ∃ c : Channel, c.variant = v ∧ ops = txnOf (encodeFrame c) := by
  apply runN_induction
  case base => exact fun s h => ⟨h, by simp⟩
  case next =>
    intro n s t u hs _ ih hinv
    obtain ⟨hlast, hlater⟩ := ih (everyStepKeepsTheInvariant v s t hinv hs)
    refine ⟨hlast, fun ops hmem => ?_⟩
    rw [trace_succ_of_next hs, List.mem_append] at hmem
    rcases hmem with hnow | hmem
    · cases stepTo_of_step hs with
      | @issue i c _ _ _ hv => exact ⟨c, hv, by simpa using hnow⟩
      | nothing | hold | respond | ignore | reset => simp at hnow
    · exact hlater ops hmem

theorem monitor_eq_none {v : Variant} {s : State} (h : CommandIsFrame v s) : monitor v s = none := by
  cases hp : s.phase with
  | idle => rw [monitor, hp]
  | busy =>
    obtain ⟨c, rfl, hcmd⟩ := h hp
    simp [monitor, hp, hcmd, encodeFrame_match]

/-- Settles O47: in BUSY CMD_REG is a channel's frame, and so is each frame sent; these pass match and mask, with SGL set. -/
theorem monitorStaysSilent : Obligations.MonitorStaysSilent := by
  intro v n s t hinv hrun
  obtain ⟨⟨hcmd, _⟩, hsent⟩ := run_blockInv n s t hrun hinv
  refine ⟨monitor_eq_none hcmd, fun ops hmem => ?_⟩
  obtain ⟨c, rfl, rfl⟩ := hsent ops hmem
  exact ⟨encodeFrame c, rfl, ((encodeFrame c).word24_extractLsb'_byte1 7 1 (by decide)).trans (encodeFrame_b1_sgl c), encodeFrame_match c⟩

end Sys2Proof.Machine
end

section
/-! PROOFS. The table words placed for the host's block (log entry 15), and several blocks on one bus (spec/60_exceptions.md section 3, rule
R105). -/

namespace Sys2Proof.Machine

/-! ### A placed table word -/

theorem tableWord_decode {nbits w : Nat} {pw : PortWord} {i : Instr} (h : tableWord nbits w = some (pw, i)) :
    decode .ch8 (tablePhase pw) pw = .ok i := by
  unfold tableWord at h
  split at h
  · obtain ⟨x, _, hx⟩ := List.exists_of_findSome?_eq_some h
    split at hx
    · next hd => cases hx; exact hd
    · cases hx
  · cases h

theorem isEvent_of_decode {v : Variant} {ph : Phase} {w : PortWord} {i : Instr} (h : decode v ph w = .ok i) : isEvent w = true := by
  rw [isEvent, bne_iff_ne]
  rintro rfl
  cases h

theorem readyFor_enabledIn (i : Instr) (s : State) : i.enabledIn (s.readyFor i).phase = true := by
  unfold State.readyFor Instr.enabledIn
  cases i.guardPhase with
  | none => rfl
  | some g => cases g <;> cases hp : s.phase <;> simp [hp]

@[simp] theorem readyFor_inputs (i : Instr) (s : State) : (s.readyFor i).inputs = s.inputs := by
  unfold State.readyFor
  split <;> rfl

/-- The state in which the word `pw` of the row `i` is placed: ready for the row, with the word alone in the coming cycle. -/
def State.placed (pw : PortWord) (i : Instr) (s : State) : State :=
  { s.readyFor i with inputs := [pw] :: s.inputs, req := if requestFirst pw then none else (s.readyFor i).req }

theorem withFetchWord_eq {nbits w : Nat} {pw : PortWord} {i : Instr} {s : State} (h : tableWord nbits w = some (pw, i)) :
    s.withFetchWord nbits w = s.placed pw i := by
  simp [State.withFetchWord, State.placed, h]

/-- A word presented alone is taken, if it is an event and, for a CMD24 word, the request port is empty (log entry 22). -/
theorem fetch_of_lone_word {s : State} {w : PortWord} (hcycle : s.cycle = [w]) (hevent : isEvent w = true)
    (hport : requestFirst w = true → s.req = none) : s.fetch = some w := by
  cases w with
  | rst bs => exact fetch_of_reset (by simp [hcycle, hasPriority, portPriority, hevent])
  | done ok p => exact fetch_of_done (by rw [hcycle]; rfl) (by rw [hcycle]; rfl)
  | readOp bs => rw [State.fetch, hcycle]; rfl
  | reqCh bs => exact fetch_of_lone_request hcycle
  | busWdata bs | writeOp bs => rw [State.fetch, State.presentedReq, hcycle, hport rfl]; rfl

/-- Settles O48: the placed word is taken, since nothing else is presented, and in the phase made ready for its row the decoder reads the
row from it. -/
theorem fetchWordRunsItsRow : Obligations.FetchWordRunsItsRow := by
  intro s nbits w i h
  obtain ⟨⟨pw, j⟩, htable, hrow⟩ := Option.map_eq_some_iff.1 h
  obtain rfl : j = i := hrow
  have hd := tableWord_decode htable
  obtain ⟨hwf, _, hword⟩ := decodeAcceptsOnlyEnabledRowsWords _ _ _ _ hd
  rw [withFetchWord_eq htable]
  have hen := readyFor_enabledIn j s
  have hdecode : decode .ch8 (s.readyFor j).phase pw = .ok j := hword ▸ decodeInvertsEncode .ch8 _ j hwf hen
  have hfetch : (s.placed pw j).fetch = some pw :=
    fetch_of_lone_word rfl (isEvent_of_decode hd) fun hfirst => if_pos hfirst
  exact ⟨fetchRow_eq_some hfetch hdecode, step_of_decode hfetch hdecode, ⟨_, step_of_fetchRow (fetchRow_eq_some hfetch hdecode)⟩, hen, rfl⟩

/-! ### Several blocks -/

/-- The state a block of variant `v` is left in when a step is asked of it: as it was where the step stops. -/
def afterStep (v : Variant) (s : State) : State :=
  match stepOf v s with
  | .next t => t
  | .fault _ => s
  | .refused _ => s

theorem afterStep_of_next {v : Variant} {s t : State} (h : stepOf v s = .next t) : afterStep v s = t := by
  rw [afterStep, h]

theorem stepAt_of_block {build : Build} {p : Platform} {k : Nat} {s : State} (hs : p[k]? = some s) :
    p.stepAt build k = p.set k (afterStep (build k) s) := by
  have hself : p.set k s = p := by
    obtain ⟨hlt, rfl⟩ := List.getElem?_eq_some_iff.1 hs
    exact List.set_getElem_self hlt
  simp only [Platform.stepAt, hs, afterStep]
  cases stepOf (build k) s with
  | next t => rfl
  | fault r | refused r => exact hself.symm

/-- A step of block `k` is a change of the place `k` of the list. -/
theorem stepAt_eq_modify (build : Build) (p : Platform) (k : Nat) : p.stepAt build k = p.modify k (afterStep (build k)) := by
  cases hs : p[k]? with
  | none =>
    rw [List.modify_eq_self (List.getElem?_eq_none_iff.1 hs), Platform.stepAt, hs]
  | some s =>
    obtain ⟨hlt, rfl⟩ := List.getElem?_eq_some_iff.1 hs
    rw [stepAt_of_block hs, List.modify_eq_take_cons_drop hlt, List.set_eq_take_append_cons_drop, if_pos hlt]

/-- Settles O50: a step changes one place of the list, and changes at two places commute. -/
theorem blocksAreIndependent : Obligations.BlocksAreIndependent := by
  refine ⟨fun build p k s t hs ht => ?_, fun build p j k hne => ⟨?_, ?_, ?_⟩⟩
  · rw [stepAt_eq_modify, List.getElem?_modify_eq, hs, ← afterStep_of_next ht]
    rfl
  · rw [stepAt_eq_modify, List.getElem?_modify_ne _ _ hne.symm]
  · simp only [stepAt_eq_modify, List.modify_modify_ne _ _ _ hne]
  · rw [stepAt_eq_modify, List.length_modify]

/-! ### One shared bus -/

theorem command?_eq_none_of_txn?_eq_none {o : Output} (h : o.txn? = none) : o.command? = none := by
  cases o with
  | busReq ops => cases h
  | rsp r => rfl

theorem issuedBy_of_next {build : Build} {p : Platform} {k : Nat} {s t : State} (hs : p[k]? = some s) (ht : stepOf (build k) s = .next t) :
    p.issuedBy build k = (t.outputs.filterMap Output.command?).map (fun F => (k, F)) := by
  simp only [Platform.issuedBy, hs, ht]

/-- Settles O55: the waiting transactions grow by what the block issues, which is the one its step outputs. -/
theorem sharedBusTakesEachBlocksTransactions : Obligations.SharedBusTakesEachBlocksTransactions := by
  intro build b k s t hs ht
  have hissued := issuedBy_of_next hs ht
  refine ⟨blocksAreIndependent.1 build b.blocks k s t hs ht, fun F hout => ?one, fun hzero => ?none, rfl, rfl⟩
  case one =>
    have hF : b.blocks.issuedBy build k = [(k, F)] := by rw [hissued, hout]; rfl
    exact ⟨hF, congrArg (b.waiting ++ ·) hF⟩
  case none =>
    have hnil : b.blocks.issuedBy build k = [] := by
      rw [txnCount, List.length_eq_zero_iff, List.filterMap_eq_nil_iff] at hzero
      rw [hissued, List.filterMap_eq_nil_iff.2 fun o ho => command?_eq_none_of_txn?_eq_none (hzero o ho), List.map_nil]
    exact ⟨hnil, (congrArg (b.waiting ++ ·) hnil).trans (List.append_nil _)⟩

/-- The transactions that blocks issue in one action. -/
def SharedBus.issuedIn (build : Build) (b : SharedBus) : BusAction → List (Nat × Frame)
  | .step k => b.blocks.issuedBy build k
  | .start _ => []
  | .finish _ => []

theorem issued_cons (build : Build) (a : BusAction) (as : List BusAction) (b : SharedBus) :
    SharedBus.issued build (a :: as) b = b.issuedIn build a ++ SharedBus.issued build as (b.act build a).1 := by
  cases a <;> rfl

/-- Beginning a transaction does nothing, or takes a waiting one where the wire is free. -/
theorem act_start (build : Build) (b : SharedBus) (j : Nat) : b.act build (.start j) = (b, []) ∨
    ∃ x, b.active = none ∧ b.waiting[j]? = some x ∧
      b.act build (.start j) = ({ b with waiting := b.waiting.eraseIdx j, active := some x }, [.select x.1 x.2]) := by
  simp only [SharedBus.act]
  split
  · next x hactive hj => exact .inr ⟨x, hactive, hj, rfl⟩
  · exact .inl rfl
  · exact .inl rfl

/-- Ending one does nothing, or frees the wire of the one that is on it. -/
theorem act_finish (build : Build) (b : SharedBus) (d : Completion) : b.act build (.finish d) = (b, []) ∨
    ∃ x blocks, b.active = some x ∧
      b.act build (.finish d) = ({ b with blocks := blocks, active := none }, [.release x.1]) := by
  simp only [SharedBus.act]
  split
  · exact .inl rfl
  · next x hactive =>
    split
    · exact .inr ⟨x, _, hactive, rfl⟩
    · split
      · exact .inl rfl
      · exact .inr ⟨x, _, hactive, rfl⟩

/-- The marks of an action keep to the transaction on the wire, whatever follows it. -/
theorem serialised_act (build : Build) (b : SharedBus) (a : BusAction) (later : List BusMark) :
    serialised (b.active.map (·.1)) ((b.act build a).2 ++ later) = serialised ((b.act build a).1.active.map (·.1)) later := by
  cases a with
  | step k => rfl
  | start j =>
    rcases act_start build b j with hact | ⟨x, hactive, _, hact⟩ <;> rw [hact]
    · rfl
    · rw [hactive]; rfl
  | finish d =>
    rcases act_finish build b d with hact | ⟨x, blocks, hactive, hact⟩ <;> rw [hact]
    · rfl
    · simp [hactive, serialised]

/-- What an action begins it takes off the waiting transactions, to which it adds what blocks issue. -/
theorem perm_act (build : Build) (b : SharedBus) (a : BusAction) :
    ((b.act build a).2.filterMap BusMark.begun? ++ (b.act build a).1.waiting).Perm (b.waiting ++ b.issuedIn build a) := by
  cases a with
  | step k => exact .refl _
  | start j =>
    rw [SharedBus.issuedIn, List.append_nil]
    rcases act_start build b j with hact | ⟨x, _, hj, hact⟩ <;> rw [hact]
    · exact .refl _
    · obtain ⟨hlt, rfl⟩ := List.getElem?_eq_some_iff.1 hj
      exact List.getElem_cons_eraseIdx_perm hlt
  | finish d =>
    rw [SharedBus.issuedIn, List.append_nil]
    rcases act_finish build b d with hact | ⟨x, blocks, _, hact⟩ <;> rw [hact] <;> exact .refl _

/-- Settles O54: action by action. -/
theorem sharedBusSerialisesTransactions : Obligations.SharedBusSerialisesTransactions := by
  intro build as
  induction as with
  | nil => intro b; simp [SharedBus.run, SharedBus.issued, serialised]
  | cons a as ih =>
    intro b
    obtain ⟨hserial, hperm⟩ := ih (b.act build a).1
    refine ⟨(serialised_act build b a _).trans hserial, ?_⟩
    have hrest := hperm.append_left ((b.act build a).2.filterMap BusMark.begun?)
    have hfirst := (perm_act build b a).append_right (SharedBus.issued build as (b.act build a).1)
    rw [issued_cons, SharedBus.run, List.filterMap_append]
    simp only [List.append_assoc] at hrest hfirst ⊢
    exact hrest.trans hfirst

end Sys2Proof.Machine
end

section
/-! PROOFS. The wire (spec/20_memory.md sections 2 and 3, rules R32 to R34): what each line carries, in what order, under one chip select. -/

namespace Sys2Proof.Machine

/-- A byte's bits make the byte again (rule R34). -/
theorem byteOfBits_byteBits (b : Byte) : byteOfBits (byteBits b) = b := by
  revert b; decide

theorem frameOfBits_frameBits (R : Frame) : frameOfBits (frameBits R) = some R := by
  show some (Frame.mk (byteOfBits (byteBits R.b0)) (byteOfBits (byteBits R.b1)) (byteOfBits (byteBits R.b2))) = some R
  simp only [byteOfBits_byteBits]

/-- The clocks between the assertion and the release of chip select. -/
def wireClocks (shape : TxnShape) (F R : Frame) : List WireEvent :=
  match shape with
  | .writeThenRead => (frameBits F).map (fun b => .clock (some b) none) ++ (frameBits R).map (fun b => .clock none (some b))
  | .simultaneous => ((frameBits F).zip (frameBits R)).map (fun b => .clock (some b.1) (some b.2))

theorem wire_eq (shape : TxnShape) (F R : Frame) : wire shape F R = .select :: (wireClocks shape F R ++ [.release]) := by
  cases shape with
  | writeThenRead => simp [wire, wireClocks]
  | simultaneous => simp [wire, wireClocks, List.zip, List.map_zipWith]

theorem wireClocks_isClock (shape : TxnShape) (F R : Frame) : ∀ e ∈ wireClocks shape F R, e.isClock = true := by
  cases shape with
  | writeThenRead =>
    intro e he
    rcases List.mem_append.1 he with he | he <;> obtain ⟨b, _, rfl⟩ := List.mem_map.1 he <;> rfl
  | simultaneous =>
    intro e he
    obtain ⟨b, _, rfl⟩ := List.mem_map.1 he
    rfl

/-- What the events of a list of bits carry on a line of which each carries nothing, and on one of which each carries its bit. -/
theorem filterMap_map_none {α : Type} {line : WireEvent → Option Bool} {f : α → WireEvent} (h : ∀ a, line (f a) = none) (as : List α) :
    (as.map f).filterMap line = [] := by
  simp [h]

theorem filterMap_map_some {α : Type} {line : WireEvent → Option Bool} {f : α → WireEvent} {bit : α → Bool}
    (h : ∀ a, line (f a) = some (bit a)) (as : List α) : (as.map f).filterMap line = as.map bit := by
  simp [List.filterMap_map, h]

theorem mosi_wireClocks (shape : TxnShape) (F R : Frame) : (wireClocks shape F R).filterMap WireEvent.mosi = frameBits F := by
  cases shape with
  | writeThenRead =>
    rw [wireClocks, List.filterMap_append, filterMap_map_some (bit := id) fun _ => rfl, filterMap_map_none fun _ => rfl]
    simp
  | simultaneous =>
    rw [wireClocks, filterMap_map_some (bit := Prod.fst) fun _ => rfl]
    exact List.map_fst_zip (Nat.le_refl 24)

theorem miso_wireClocks (shape : TxnShape) (F R : Frame) : (wireClocks shape F R).filterMap WireEvent.miso = frameBits R := by
  cases shape with
  | writeThenRead =>
    rw [wireClocks, List.filterMap_append, filterMap_map_none fun _ => rfl, filterMap_map_some (bit := id) fun _ => rfl]
    simp
  | simultaneous =>
    rw [wireClocks, filterMap_map_some (bit := Prod.snd) fun _ => rfl]
    exact List.map_snd_zip (Nat.le_refl 24)

theorem chipSelectHeld_of_clocks {es : List WireEvent} (h : ∀ e ∈ es, e.isClock = true) :
    chipSelectHeld (.select :: (es ++ [.release])) = true := by
  simpa [chipSelectHeld] using h

theorem filter_isClock_wire (shape : TxnShape) (F R : Frame) : (wire shape F R).filter WireEvent.isClock = wireClocks shape F R := by
  rw [wire_eq, List.filter_cons_of_neg (by decide), List.filter_append, List.filter_eq_self.2 (wireClocks_isClock shape F R)]
  exact List.append_nil _

/-- The bits of a frame in wire order are those of its word, the most significant first (rules R12, R34). -/
theorem frameBits_eq_word24 (F : Frame) : frameBits F = (List.range 24).map (fun k => F.word24.getMsbD k) := by
  simp [frameBits, byteBits, List.range_succ, BitVec.getMsbD, Frame.word24_getLsbD]

/-- Settles O49: between the two edges of chip select there are the clocks alone, whose lines carry the two frames. -/
theorem wireCarriesBothFrames : Obligations.WireCarriesBothFrames := by
  refine ⟨fun shape F R => ⟨?mosi, ?miso, ?held, ?order⟩, frameBits_eq_word24, by decide⟩
  case mosi =>
    rw [wire_eq, List.filterMap_cons_none rfl, List.filterMap_append, mosi_wireClocks]
    exact List.append_nil _
  case miso =>
    rw [wire_eq, List.filterMap_cons_none rfl, List.filterMap_append, miso_wireClocks, ← frameOfBits_frameBits R]
    exact congrArg frameOfBits (List.append_nil _)
  case held => rw [wire_eq]; exact chipSelectHeld_of_clocks (wireClocks_isClock shape F R)
  case order =>
    rw [filter_isClock_wire]
    cases shape with
    | writeThenRead =>
      have hlength : ((frameBits F).map (fun b => WireEvent.clock (some b) none)).length = 24 := rfl
      refine ⟨rfl, ?_, ?_⟩
      · rw [wireClocks, List.take_left' hlength]
        exact filterMap_map_none (fun _ => rfl) _
      · rw [wireClocks, List.drop_left' hlength]
        exact filterMap_map_none (fun _ => rfl) _
    | simultaneous =>
      refine ⟨rfl, fun e he => ?_⟩
      obtain ⟨b, _, rfl⟩ := List.mem_map.1 he
      exact ⟨rfl, rfl⟩

end Sys2Proof.Machine
end
